-- ==== Sys2Proof/Word.lean ====
section
/-! DEFINITION. The plain data types of the block. A register word is an unsigned integer below `2^W` (R7, R14, R80); `W` is
a parameter of a run (R41), so a word is a natural number, cut to `W` bits where the spec writes `trunc_W` and wherever a
word enters a register (log entry 1). -/

namespace Sys2Proof

/-- One byte of a buffer, an unsigned 8-bit value (R35). -/
abbrev Byte := BitVec 8

end Sys2Proof
end

