-- ==== Sys2Proof/Syntax.lean ====
section
/-! DEFINITION. The syntax of the block: the records of the four word layouts (R81 to R84), the registers by direction
(R51), the 29 rows of the opcode table as one inductive `Instr`, and the frames they are encoded in (R80, R90, R91). -/

namespace Sys2Proof

/-- A compressor control record (R81, R112). A numeric field is a natural number; an encoder masks it (R111). -/
structure Cctl where
  stop : Bool
  inputValid : Bool
  outputReady : Bool
  inputBits : Nat
deriving DecidableEq, Repr

/-- A decompressor control record (R82, R114); it has no `stop`. -/
structure Dctl where
  inputValid : Bool
  outputReady : Bool
  inputBits : Nat
deriving DecidableEq, Repr

/-- A compressor status record (R83, R116). -/
structure Cst where
  inputReady : Bool
  outputValid : Bool
  outputBits : Nat
deriving DecidableEq, Repr

/-- A decompressor status record (R84, R118). -/
structure Dst where
  inputReady : Bool
  outputValid : Bool
  outputBits : Nat
  dataOutLength : Nat
deriving DecidableEq, Repr

/-- The two units outside the block (R17). -/
inductive UnitId where
  | compressor
  | decompressor
deriving DecidableEq, Repr

/-- The four word layouts (R80). -/
inductive Layout where
  | cctl
  | dctl
  | cst
  | dst
deriving DecidableEq, Repr

/-- The registers the map allows to be read (R51): the status words, the side-effecting reset reads, the counters. -/
inductive ReadReg where
  | cStat
  | dStat
  | cRst
  | dRst
  | cycle
  | instr
deriving DecidableEq, Repr

/-- The registers the map allows to be written (R51): the control words and the counters. -/
inductive WriteReg where
  | cCtrl
  | dCtrl
  | cycle
  | instr
deriving DecidableEq, Repr

/-- One register access, with the word it returned or delivered (R6, R97). -/
inductive Access where
  /-- `RD <name> -> <word>`. -/
  | read (r : ReadReg) (v : Nat)
  /-- `WR <name> <- <word>`. -/
  | write (r : WriteReg) (v : Nat)
deriving DecidableEq, Repr

/-- The rows of `opcode_table.json`, one constructor each. A write access carries its data word (R90); a layout row
carries the record the word stands for (R81 to R84); a tick row carries the bits of the decode vector that its pattern
does not look at, highest first (R91), so that encoding drops no bit. -/
inductive Instr where
  /-- `WR.C_CTRL`: hand a CCTL word to the Compressor (R56, R131). -/
  | wrCCtrl (v : Nat)
  /-- `WR.D_CTRL`: hand a DCTL word to the Decompressor (R56, R132). -/
  | wrDCtrl (v : Nat)
  /-- `RD.C_STAT`: return the Compressor's status word (R56, R133). -/
  | rdCStat
  /-- `RD.D_STAT`: return the Decompressor's status word (R56, R134). -/
  | rdDStat
  /-- `RD.C_RST`: reset the Compressor, return a meaningless word (R56, R135). -/
  | rdCRst
  /-- `RD.D_RST`: reset the Decompressor, return a meaningless word (R56, R136). -/
  | rdDRst
  /-- `RD.CYCLE`: return `cyc` (R56, R184). -/
  | rdCycle
  /-- `WR.CYCLE`: `cyc <-` data (R56, R183). -/
  | wrCycle (v : Nat)
  /-- `RD.INSTR`: return `ins` (R56, R184). -/
  | rdInstr
  /-- `WR.INSTR`: `ins <-` data (R56, R183). -/
  | wrInstr (v : Nat)
  /-- `CCTL`: the codec on a compressor control word (R81, R112, R113). -/
  | cctl (f : Cctl)
  /-- `DCTL`: the codec on a decompressor control word (R82, R114, R115). -/
  | dctl (f : Dctl)
  /-- `CST`: the codec on a compressor status word (R83, R116, R117). -/
  | cst (f : Cst)
  /-- `DST`: the codec on a decompressor status word (R84, R118, R119). -/
  | dst (f : Dst)
  /-- `C.FEED`: `writeInputs(stop=false, inputValid=true, outputReady=false, inputBits=b)` (R96 row 1, R152). -/
  | cFeed (b : Byte)
  /-- `C.ACK`: `writeInputs(outputReady=true)` to the Compressor (R96 row 2, R153). -/
  | cAck
  /-- `D.INPUT`: `writeInputs(inputValid=true, inputBits=s)` to the Decompressor (R96 row 3, R153). -/
  | dInput (symbol : Nat)
  /-- `D.ACK`: `writeInputs(outputReady=true)` to the Decompressor (R96 row 4, R154). -/
  | dAck
  /-- `TICK.FEED`, pattern `11---` (R91, R152). -/
  | tickFeed (cOV dIR dOV : Bool)
  /-- `TICK.XFER.a`, pattern `0-11-` (R91, R153). -/
  | tickXferA (cIR dOV : Bool)
  /-- `TICK.XFER.b`, pattern `1011-` (R91, R153). -/
  | tickXferB (dOV : Bool)
  /-- `TICK.DRAIN.a`, pattern `0-0-1` (R91, R154). -/
  | tickDrainA (cIR dIR : Bool)
  /-- `TICK.DRAIN.b`, pattern `0-101` (R91, R154). -/
  | tickDrainB (cIR : Bool)
  /-- `TICK.DRAIN.c`, pattern `100-1` (R91, R154). -/
  | tickDrainC (dIR : Bool)
  /-- `TICK.DRAIN.d`, pattern `10101` (R91, R154). -/
  | tickDrainD
  /-- `TICK.IDLE.a`, pattern `0-0-0` (R91, R155). -/
  | tickIdleA (cIR dIR : Bool)
  /-- `TICK.IDLE.b`, pattern `0-100` (R91, R155). -/
  | tickIdleB (cIR : Bool)
  /-- `TICK.IDLE.c`, pattern `100-0` (R91, R155). -/
  | tickIdleC (dIR : Bool)
  /-- `TICK.IDLE.d`, pattern `10100` (R91, R155). -/
  | tickIdleD
deriving DecidableEq, Repr

/-- What an instruction is encoded in. A word does not say its own layout (R80: "by nothing in the word itself"), so the
frame says where the word stands. DESIGN CHOICE, log entry 10: the spec serialises `cmd`, the words and the vector, and
leaves the frame around them open. -/
inductive Frame where
  /-- An access command of `1 + ADDR_W` bits, with the data word beside it when it is a write (R90). -/
  | access (cmd : Nat) (data : Option Nat)
  /-- A word handed to the codec under a layout (R80). -/
  | layout (l : Layout) (w : Nat)
  /-- A control word in one of the arbiter's short forms for a unit (R96). -/
  | control (u : UnitId) (w : Nat)
  /-- The decode vector of a tick (R91). -/
  | tick (t : BitVec 5)
deriving DecidableEq, Repr

/-- Why a frame stands for no instruction. -/
inductive DecodeError where
  /-- An access outside the map or against a register's direction (R57, R93 (1)): direction and address. -/
  | undefinedAccess (write : Bool) (addr : Nat)
  /-- A number of more than `1 + ADDR_W` bits, which is no access command (R90). -/
  | notCommand (cmd : Nat)
  /-- A number of more than `W` bits, which is no word (R80, R90). -/
  | notWord (w : Nat)
  /-- A write command without its data word (R90: "a write carries a `W`-bit data word beside it"). -/
  | dataMissing
  /-- A read command with a data word beside it (R90). -/
  | dataUnexpected
  /-- A control word that is none of the short forms the arbiter sends to that unit (R96). -/
  | notShortForm (u : UnitId) (w : Nat)
deriving DecidableEq, Repr

end Sys2Proof
end

