-- ==== Sys2Proof/Config.lean ====
section
/-! DEFINITION. What the model takes from outside (R41): the implementation parameters with their defaults (R7 to R9) and
the environment (R28, R181, R25), whose functions are opaque: nothing in Lean can evaluate them or prove a value of them. -/

namespace Sys2Proof

/-- The implementation parameters of R7 to R9. -/
structure Params where
  /-- `W`, the width of a register word (R7). -/
  W : Nat
  /-- `CC_IN_W`, the width of `CCTL.inputBits` (R8). -/
  ccInW : Nat
  /-- `DC_IN_W`, the width of `DCTL.inputBits` (R8). -/
  dcInW : Nat
  /-- `ADDR_W`, the width of a register address (R9). -/
  addrW : Nat
  /-- `A_CCTL` (R9). -/
  aCctl : Nat
  /-- `A_DCTL` (R9). -/
  aDctl : Nat
  /-- `A_CST` (R9). -/
  aCst : Nat
  /-- `A_DST` (R9). -/
  aDst : Nat
  /-- `A_CRST` (R9). -/
  aCrst : Nat
  /-- `A_DRST` (R9). -/
  aDrst : Nat
  /-- `A_CYC` (R9). -/
  aCyc : Nat
  /-- `A_INS` (R9). -/
  aIns : Nat
deriving DecidableEq, Repr

/-- `CS_OUT_W = W-2`, the width of `CST.outputBits` (R8). -/
def Params.csOutW (p : Params) : Nat := p.W - 2

/-- `DS_LEN_W = W-18`, the width of `DST.dataOutLength` (R8). -/
def Params.dsLenW (p : Params) : Nat := p.W - 18

/-- The eight address constants, in the order of R9. -/
def Params.addresses (p : Params) : List Nat :=
  [p.aCctl, p.aDctl, p.aCst, p.aDst, p.aCrst, p.aDrst, p.aCyc, p.aIns]

/-- The constraints of R7, R8 and R9: `W >= 20`, `8 <= CC_IN_W <= W-3`, `1 <= DC_IN_W <= W-2`, the eight addresses
pairwise different and of `ADDR_W` bits. -/
def Params.legal (p : Params) : Bool :=
  decide (20 ≤ p.W ∧ 8 ≤ p.ccInW ∧ p.ccInW ≤ p.W - 3 ∧ 1 ≤ p.dcInW ∧ p.dcInW ≤ p.W - 2
    ∧ p.addresses.Nodup ∧ ∀ a ∈ p.addresses, a < 2 ^ p.addrW)

/-- The defaults of R7 to R9, at which `opcode_table.json` stands. -/
def Params.default : Params where
  W := 32
  ccInW := 29
  dcInW := 30
  addrW := 12
  aCctl := 0x8FC
  aDctl := 0x8FD
  aCst := 0xCFE
  aDst := 0xCFF
  aCrst := 0xCED
  aDrst := 0xCEE
  aCyc := 0x8FF
  aIns := 0x8FE

/-- `DS_OUT_BYTES`, the most bytes `DST.outputBits` can hold (R8). -/
def dsOutBytes : Nat := 2

/-- A unit's hidden state `U`, a value of an abstract type (R28), coded as plain data (DESIGN CHOICE, log entry 2). -/
abbrev UnitState := List Nat

/-- The four functions of one unit (R28), unconstrained. `advance h u` is where the unit stands after the internal steps
it took, any number of them, before the access that follows the accesses `h`, latest first. `accepted` and `waiting` say
which data a unit in this state holds: input it has accepted and not wholly given up again, and output it has made and not
yet given up, oldest first. No operation reads the two; the premises that speak of a unit's data do (92; log entry 24). -/
structure UnitEnv where
  status : UnitState → Nat
  onCtrl : UnitState → Nat → UnitState
  onReset : UnitState → UnitState
  advance : List Access → UnitState → UnitState
  accepted : UnitState → List Nat
  waiting : UnitState → List Nat

/-- The environment (R17): the two units, the draws `dc` and `di` of the counters (R181), the word a reset read returns
(R25). A draw is a function of the accesses made before it, latest first, and so one of its own for every access
(log entry 3). -/
structure Env where
  compressor : UnitEnv
  decompressor : UnitEnv
  cycleDraw : List Access → Nat
  instrDraw : List Access → Nat
  resetWord : List Access → Nat

/-- `status(U_c)` (R23, R28): a free function. -/
opaque Config.compressorStatus : UnitState → Nat
/-- `on_ctrl(U_c, word)` (R21, R28): a free function; what `stop` does is inside it (R164, log entry 23). -/
opaque Config.compressorOnCtrl : UnitState → Nat → UnitState
/-- `on_reset(U_c)` (R25, R241): a free function. -/
opaque Config.compressorOnReset : UnitState → UnitState
/-- The Compressor's internal steps before an access (R28, R60): a free function. -/
opaque Config.compressorAdvance : List Access → UnitState → UnitState
/-- `status(U_d)` (R24, R28): a free function. -/
opaque Config.decompressorStatus : UnitState → Nat
/-- `on_ctrl(U_d, word)` (R22, R28): a free function. -/
opaque Config.decompressorOnCtrl : UnitState → Nat → UnitState
/-- `on_reset(U_d)` (R25, R241): a free function. -/
opaque Config.decompressorOnReset : UnitState → UnitState
/-- The Decompressor's internal steps before an access (R28, R60): a free function. -/
opaque Config.decompressorAdvance : List Access → UnitState → UnitState
/-- The input data inside the Compressor (92): a free function, read by no operation. -/
opaque Config.compressorAccepted : UnitState → List Nat
/-- The output data inside the Compressor (92): a free function, read by no operation. -/
opaque Config.compressorWaiting : UnitState → List Nat
/-- The input data inside the Decompressor (92): a free function, read by no operation. -/
opaque Config.decompressorAccepted : UnitState → List Nat
/-- The output data inside the Decompressor (92): a free function, read by no operation. -/
opaque Config.decompressorWaiting : UnitState → List Nat
/-- `dc`, the cycle counter's draw before an access (R181): a free value. -/
opaque Config.cycleDraw : List Access → Nat
/-- `di`, the instruction counter's draw before an access (R181): a free value. -/
opaque Config.instrDraw : List Access → Nat
/-- The word a reset read returns, `draw(word)` (R25, R135): a free value. -/
opaque Config.resetWord : List Access → Nat

/-- The environment of the machine: every part of it free. -/
def Config.env : Env where
  compressor := {
    status := Config.compressorStatus
    onCtrl := Config.compressorOnCtrl
    onReset := Config.compressorOnReset
    advance := Config.compressorAdvance
    accepted := Config.compressorAccepted
    waiting := Config.compressorWaiting }
  decompressor := {
    status := Config.decompressorStatus
    onCtrl := Config.decompressorOnCtrl
    onReset := Config.decompressorOnReset
    advance := Config.decompressorAdvance
    accepted := Config.decompressorAccepted
    waiting := Config.decompressorWaiting }
  cycleDraw := Config.cycleDraw
  instrDraw := Config.instrDraw
  resetWord := Config.resetWord

end Sys2Proof
end

