-- ==== Sys2Proof/Machine/Codec.lean ====
section
/-! DEFINITION. The Control/Status Word Codec (spec file 40): placing and extracting fields (R85), the eight functions
`ENC_X` and `DEC_X` (R112 to R119) and the predicate `fits` (R111), for every value of the parameters. -/

namespace Sys2Proof

/-- `trunc_n(v) = v mod 2^n` (R14). -/
def trunc (n v : Nat) : Nat := v % 2 ^ n

/-- `v[hi:lo]`: the unsigned integer made of bits `hi` down to `lo` of `v` (R14, R85). -/
def fieldOf (v hi lo : Nat) : Nat := trunc (hi + 1 - lo) (v >>> lo)

/-- `v[i] = 1` (R14). -/
def flagOf (v i : Nat) : Bool := fieldOf v i i == 1

/-- `trunc_n(f) << lo`: an `n`-bit field placed at bit `lo` (R85, R111: a wider value is masked). -/
def placeField (n lo f : Nat) : Nat := trunc n f <<< lo

/-- `ENC_CCTL` (R112). -/
def encCctl (p : Params) (f : Cctl) : Nat :=
  trunc p.W (f.stop.toNat + (f.inputValid.toNat <<< 1) + (f.outputReady.toNat <<< 2) + placeField p.ccInW 3 f.inputBits)

/-- `DEC_CCTL` (R113); reserved bits are ignored. -/
def decCctl (p : Params) (w : Nat) : Cctl where
  stop := flagOf w 0
  inputValid := flagOf w 1
  outputReady := flagOf w 2
  inputBits := fieldOf w (3 + p.ccInW - 1) 3

/-- `ENC_DCTL` (R114). -/
def encDctl (p : Params) (f : Dctl) : Nat :=
  trunc p.W (f.inputValid.toNat + (f.outputReady.toNat <<< 1) + placeField p.dcInW 2 f.inputBits)

/-- `DEC_DCTL` (R115); reserved bits are ignored. -/
def decDctl (p : Params) (w : Nat) : Dctl where
  inputValid := flagOf w 0
  outputReady := flagOf w 1
  inputBits := fieldOf w (2 + p.dcInW - 1) 2

/-- `ENC_CST` (R116). -/
def encCst (p : Params) (f : Cst) : Nat :=
  trunc p.W (f.inputReady.toNat + (f.outputValid.toNat <<< 1) + placeField p.csOutW 2 f.outputBits)

/-- `DEC_CST` (R117); `outputBits` is extracted whatever `outputValid` is. -/
def decCst (p : Params) (w : Nat) : Cst where
  inputReady := flagOf w 0
  outputValid := flagOf w 1
  outputBits := fieldOf w (p.W - 1) 2

/-- `ENC_DST` (R118); it does not check `dataOutLength <= 2`. -/
def encDst (p : Params) (f : Dst) : Nat :=
  trunc p.W (f.inputReady.toNat + (f.outputValid.toNat <<< 1) + placeField 16 2 f.outputBits
    + placeField p.dsLenW 18 f.dataOutLength)

/-- `DEC_DST` (R119); `dataOutLength` is returned as the number it is, legal or not. -/
def decDst (p : Params) (w : Nat) : Dst where
  inputReady := flagOf w 0
  outputValid := flagOf w 1
  outputBits := fieldOf w 17 2
  dataOutLength := fieldOf w (p.W - 1) 18

/-- `fits_CCTL` (R111): nothing is lost when the record is encoded. -/
def fitsCctl (p : Params) (f : Cctl) : Bool := decide (f.inputBits < 2 ^ p.ccInW)

/-- `fits_DCTL` (R111). -/
def fitsDctl (p : Params) (f : Dctl) : Bool := decide (f.inputBits < 2 ^ p.dcInW)

/-- `fits_CST` (R111). -/
def fitsCst (p : Params) (f : Cst) : Bool := decide (f.outputBits < 2 ^ p.csOutW)

/-- `fits_DST` (R111). -/
def fitsDst (p : Params) (f : Dst) : Bool := decide (f.outputBits < 2 ^ 16 ∧ f.dataOutLength < 2 ^ p.dsLenW)

end Sys2Proof
end

