-- ==== Sys2Proof/Decode.lean ====
section
/-! DEFINITION. Decoding, total on every frame, rejecting by name: the ten access commands (R90), the codec's words
(R80), the arbiter's short forms (R96), the tick decode table (R91); the encoder after it; both for every value of the
parameters; and the reading of a bare word of `opcode_table.json`. -/

namespace Sys2Proof

/-- The address of a readable register (R51, R9). -/
def ReadReg.addr (p : Params) : ReadReg → Nat
  | .cStat => p.aCst
  | .dStat => p.aDst
  | .cRst => p.aCrst
  | .dRst => p.aDrst
  | .cycle => p.aCyc
  | .instr => p.aIns

/-- The address of a writable register (R51, R9). -/
def WriteReg.addr (p : Params) : WriteReg → Nat
  | .cCtrl => p.aCctl
  | .dCtrl => p.aDctl
  | .cycle => p.aCyc
  | .instr => p.aIns

/-- The register a read of this address reads, if the map allows the read (R51, R57). -/
def readRegAt (p : Params) (a : Nat) : Option ReadReg :=
  [ReadReg.cStat, .dStat, .cRst, .dRst, .cycle, .instr].find? fun r => r.addr p == a

/-- The register a write of this address writes, if the map allows the write (R51, R57). -/
def writeRegAt (p : Params) (a : Nat) : Option WriteReg :=
  [WriteReg.cCtrl, .dCtrl, .cycle, .instr].find? fun r => r.addr p == a

/-- The instruction that reads a register (R90). -/
def readInstr : ReadReg → Instr
  | .cStat => .rdCStat
  | .dStat => .rdDStat
  | .cRst => .rdCRst
  | .dRst => .rdDRst
  | .cycle => .rdCycle
  | .instr => .rdInstr

/-- The instruction that writes a register (R90). -/
def writeInstr (v : Nat) : WriteReg → Instr
  | .cCtrl => .wrCCtrl v
  | .dCtrl => .wrDCtrl v
  | .cycle => .wrCycle v
  | .instr => .wrInstr v

/-- `cmd = dir ++ addr`, `dir` in bit `ADDR_W`, 1 for a write (R90). -/
def accessCmd (p : Params) (write : Bool) (addr : Nat) : Nat := (write.toNat <<< p.addrW) + trunc p.addrW addr

/-- A `W`-bit word, or the reason a number is none (R80, R90). -/
def checkWord (p : Params) (w : Nat) : Except DecodeError Nat := if w < 2 ^ p.W then .ok w else .error (.notWord w)

/-- A write of an address, with the data word beside it (R90, R57). -/
def decodeWrite (p : Params) (addr : Nat) (data : Option Nat) : Except DecodeError Instr :=
  match writeRegAt p addr, data with
  | some r, some v => (checkWord p v).map fun v => writeInstr v r
  | some _, none => .error .dataMissing
  | none, _ => .error (.undefinedAccess true addr)

/-- A read of an address (R90, R57). -/
def decodeRead (p : Params) (addr : Nat) (data : Option Nat) : Except DecodeError Instr :=
  match readRegAt p addr, data with
  | some r, none => .ok (readInstr r)
  | some _, some _ => .error .dataUnexpected
  | none, _ => .error (.undefinedAccess false addr)

/-- An access command (R90); every value of `cmd` but the ten is an undefined access (R93 (1)). -/
def decodeAccess (p : Params) (cmd : Nat) (data : Option Nat) : Except DecodeError Instr :=
  if cmd < 2 ^ (1 + p.addrW) then
    if flagOf cmd p.addrW then decodeWrite p (trunc p.addrW cmd) data else decodeRead p (trunc p.addrW cmd) data
  else .error (.notCommand cmd)

/-- A word handed to the codec: its record under the layout (R80, R113, R115, R117, R119). -/
def decodeLayout (p : Params) (l : Layout) (w : Nat) : Instr :=
  match l with
  | .cctl => .cctl (decCctl p w)
  | .dctl => .dctl (decDctl p w)
  | .cst => .cst (decCst p w)
  | .dst => .dst (decDst p w)

/-- The pattern of `C.FEED`: bits `W-1` to 11 zero, bits 2 to 0 `010` (R96, R98). -/
def isFeedWord (p : Params) (w : Nat) : Bool := fieldOf w (p.W - 1) 11 == 0 && fieldOf w 2 0 == 2

/-- The pattern of `D.INPUT`: bits 1 and 0 `01`, the reserved bits zero (R96, R98, R82). -/
def isInputWord (p : Params) (w : Nat) : Bool := fieldOf w 1 0 == 1 && fieldOf w (p.W - 1) (2 + p.dcInW) == 0

/-- The short forms of the Compressor's control word (R96 rows 1 and 2). -/
def decodeControlC (p : Params) (w : Nat) : Except DecodeError Instr :=
  if isFeedWord p w then .ok (.cFeed (BitVec.ofNat 8 (fieldOf w 10 3)))
  else if w = 4 then .ok .cAck
  else .error (.notShortForm .compressor w)

/-- The short forms of the Decompressor's control word (R96 rows 3 and 4). -/
def decodeControlD (p : Params) (w : Nat) : Except DecodeError Instr :=
  if isInputWord p w then .ok (.dInput (fieldOf w (2 + p.dcInW - 1) 2))
  else if w = 2 then .ok .dAck
  else .error (.notShortForm .decompressor w)

/-- The tick decode table (R91), bits `more cIR cOV dIR dOV`, one line per row of the table. -/
def decodeTickBits : Bool → Bool → Bool → Bool → Bool → Instr
  | true, true, cOV, dIR, dOV => .tickFeed cOV dIR dOV
  | false, cIR, true, true, dOV => .tickXferA cIR dOV
  | true, false, true, true, dOV => .tickXferB dOV
  | false, cIR, false, dIR, true => .tickDrainA cIR dIR
  | false, cIR, true, false, true => .tickDrainB cIR
  | true, false, false, dIR, true => .tickDrainC dIR
  | true, false, true, false, true => .tickDrainD
  | false, cIR, false, dIR, false => .tickIdleA cIR dIR
  | false, cIR, true, false, false => .tickIdleB cIR
  | true, false, false, dIR, false => .tickIdleC dIR
  | true, false, true, false, false => .tickIdleD

/-- A decode vector `t`, `more` in bit 4 and `dOV` in bit 0 (R91). -/
def decodeTick (t : BitVec 5) : Instr :=
  decodeTickBits (flagOf t.toNat 4) (flagOf t.toNat 3) (flagOf t.toNat 2) (flagOf t.toNat 1) (flagOf t.toNat 0)

/-- The decoder: the instruction a frame stands for, or the reason it stands for none. -/
def decode (p : Params) : Frame → Except DecodeError Instr
  | .access cmd data => decodeAccess p cmd data
  | .layout l w => (checkWord p w).map (decodeLayout p l)
  | .control .compressor w => (checkWord p w).bind (decodeControlC p)
  | .control .decompressor w => (checkWord p w).bind (decodeControlD p)
  | .tick t => .ok (decodeTick t)

/-- The decode vector `t = more ++ cIR ++ cOV ++ dIR ++ dOV` (R91). -/
def tickBits (more cIR cOV dIR dOV : Bool) : BitVec 5 :=
  BitVec.ofNat 5 ((more.toNat <<< 4) + (cIR.toNat <<< 3) + (cOV.toNat <<< 2) + (dIR.toNat <<< 1) + dOV.toNat)

/-- The record of `C.FEED` (R96 row 1): the byte zero-extended (R86). -/
def feedRecord (b : Byte) : Cctl :=
  { stop := false, inputValid := true, outputReady := false, inputBits := b.toNat }

/-- The record of `C.ACK` (R96 row 2). -/
def ackRecordC : Cctl := { stop := false, inputValid := false, outputReady := true, inputBits := 0 }

/-- The record of `D.INPUT` (R96 row 3). -/
def inputRecord (symbol : Nat) : Dctl := { inputValid := true, outputReady := false, inputBits := symbol }

/-- The record of `D.ACK` (R96 row 4). -/
def ackRecordD : Dctl := { inputValid := false, outputReady := true, inputBits := 0 }

/-- The frame of a read access (R90). -/
def encodeRead (p : Params) (r : ReadReg) : Frame := .access (accessCmd p false (r.addr p)) none

/-- The frame of a write access (R90). -/
def encodeWrite (p : Params) (r : WriteReg) (v : Nat) : Frame := .access (accessCmd p true (r.addr p)) (some v)

/-- The encoder: the frame of an instruction, written from the same tables. -/
def encode (p : Params) : Instr → Frame
  | .wrCCtrl v => encodeWrite p .cCtrl v
  | .wrDCtrl v => encodeWrite p .dCtrl v
  | .rdCStat => encodeRead p .cStat
  | .rdDStat => encodeRead p .dStat
  | .rdCRst => encodeRead p .cRst
  | .rdDRst => encodeRead p .dRst
  | .rdCycle => encodeRead p .cycle
  | .wrCycle v => encodeWrite p .cycle v
  | .rdInstr => encodeRead p .instr
  | .wrInstr v => encodeWrite p .instr v
  | .cctl f => .layout .cctl (encCctl p f)
  | .dctl f => .layout .dctl (encDctl p f)
  | .cst f => .layout .cst (encCst p f)
  | .dst f => .layout .dst (encDst p f)
  | .cFeed b => .control .compressor (encCctl p (feedRecord b))
  | .cAck => .control .compressor (encCctl p ackRecordC)
  | .dInput s => .control .decompressor (encDctl p (inputRecord s))
  | .dAck => .control .decompressor (encDctl p ackRecordD)
  | .tickFeed cOV dIR dOV => .tick (tickBits true true cOV dIR dOV)
  | .tickXferA cIR dOV => .tick (tickBits false cIR true true dOV)
  | .tickXferB dOV => .tick (tickBits true false true true dOV)
  | .tickDrainA cIR dIR => .tick (tickBits false cIR false dIR true)
  | .tickDrainB cIR => .tick (tickBits false cIR true false true)
  | .tickDrainC dIR => .tick (tickBits true false false dIR true)
  | .tickDrainD => .tick (tickBits true false true false true)
  | .tickIdleA cIR dIR => .tick (tickBits false cIR false dIR false)
  | .tickIdleB cIR => .tick (tickBits false cIR true false false)
  | .tickIdleC dIR => .tick (tickBits true false false dIR false)
  | .tickIdleD => .tick (tickBits true false true false false)

/-- The frame of a bare 32-bit word of the table, which stands at the default parameters. A word does not say its layout
(R80), so a bare one is read as the short form whose pattern it has, fixed words first, and as a `CCTL` word otherwise.
DESIGN CHOICE, log entry 10: `0x00000002` is both `D.ACK` and `C.FEED` of the byte 0, and is read as `D.ACK` here. -/
def tableWord32 (w : Nat) : Frame :=
  if w = 2 then .control .decompressor w
  else if w = 4 || isFeedWord Params.default w then .control .compressor w
  else if isInputWord Params.default w then .control .decompressor w
  else .layout .cctl w

/-- The frame of the bits of a table row, at the default parameters: 5 bits in one byte are a tick vector (R91), 13 bits in
two bytes an access command (R90; a write's data word follows in bits 47 to 16, a read has none), 32 bits a word (R80). -/
def tableFrame (nbits w : Nat) : Option Frame :=
  if nbits = 8 then
    if w < 2 ^ 5 then some (.tick (BitVec.ofNat 5 w)) else none
  else if nbits = 16 ∨ nbits = 48 then
    let cmd := fieldOf w 15 0
    let data := fieldOf w 47 16
    if w < 2 ^ nbits ∧ cmd < 2 ^ 13 then
      if flagOf cmd 12 then some (.access cmd (some data))
      else if data = 0 then some (.access cmd none)
      else none
    else none
  else if nbits = 32 then
    if w < 2 ^ 32 then some (tableWord32 w) else none
  else none

/-- The instruction the decoder reads from the bits `w` of a table row of `nbits` bits, at the default parameters. -/
def decodeTableWord (nbits w : Nat) : Option Instr :=
  match tableFrame nbits w with
  | some f =>
    match decode Params.default f with
    | .ok i => some i
    | .error _ => none
  | none => none

end Sys2Proof
end

