-- ==== Sys2Proof/Machine/State.lean ====
section
/-! DEFINITION. The state of the block as plain data (spec file 10), the reasons a step can stop, and the state at
power-on. -/

namespace Sys2Proof.Machine

/-- `phase`, the arbiter's sequencer register (R31). -/
inductive Phase where
  | idle
  | pump
  | draining
  | done
  | faulted
deriving DecidableEq, Repr

/-- The values of the fault register `fault` (R33, R210). -/
inductive FaultCode where
  | none
  | stallBudget
  | lengthViolation
  | outputOverflow
  | undefinedAccess
deriving DecidableEq, Repr

/-- The code of a fault value (R210). -/
def FaultCode.code : FaultCode → Nat
  | .none => 0
  | .stallBudget => 1
  | .lengthViolation => 2
  | .outputOverflow => 3
  | .undefinedAccess => 4

/-- The information `raise` keeps beside the fault register (R216, R211 to R214). -/
inductive FaultInfo where
  | none
  | ticks (n : Nat)
  | length (len : Nat)
  | overflow (outCur len : Nat)
  | access (write : Bool) (addr : Nat)
deriving DecidableEq, Repr

/-- `TERM_MODE` (R11). -/
inductive TermMode where
  | inputOnly
  | drainToLength
deriving DecidableEq, Repr

/-- The arguments of a run (R41, R244 (2)): the parameters of R7 to R9, `in_buf` with `N` its length (R35), `IN_CAP`,
`OUT_CAP`, `EXPECT_LEN` (R10), `TERM_MODE` (R11), `TICK_BUDGET` (R12). -/
structure RunArgs where
  params : Params
  inBuf : List Byte
  inCap : Nat
  outCap : Nat
  expectLen : Nat
  termMode : TermMode
  tickBudget : Option Nat
deriving DecidableEq, Repr

/-- `N`, the length of the input (R10). -/
def RunArgs.inLen (a : RunArgs) : Nat := a.inBuf.length

/-- A performance sample (R38). -/
structure Sample where
  cycleCount : Nat
  instructionCount : Nat
deriving DecidableEq, Repr

/-- A mismatch record (R39, R200); `actual` is `none` for `UNWRITTEN`. -/
structure Mismatch where
  index : Nat
  expected : Byte
  actual : Option Byte
deriving DecidableEq, Repr

/-- A record a codec call returns (R95, R110). -/
inductive CodecRecord where
  | cctl (f : Cctl)
  | dctl (f : Dctl)
  | cst (f : Cst)
  | dst (f : Dst)
deriving DecidableEq, Repr

/-- The output buffer: (index, byte) pairs in canonical form, indices strictly rising; an unlisted entry is `UNWRITTEN`
(R36, log entry 18). -/
abbrev Memory := List Host.Cell

/-- The position inside the fixed sequence of `RUN` (R165): which access or decision comes next. The model's own field;
with `phase` it is the block's program counter (R2, log entry 7). -/
inductive Seq where
  /-- No run in progress. -/
  | idle
  /-- `C.reset()` is next. -/
  | resetC
  /-- `D.reset()` is next. -/
  | resetD
  /-- The first write of `PC_RESET` is next. -/
  | clearCycle
  /-- The second write of `PC_RESET` is next. -/
  | clearInstr
  /-- The first read of the baseline snapshot is next. -/
  | baseCycle
  /-- The second read of the baseline snapshot is next. -/
  | baseInstr
  /-- The head of the loop of the current phase. -/
  | loopHead
  /-- Inside a tick, after its first status read. -/
  | readD
  /-- Inside a tick, after both status reads: the outcome is next. -/
  | decide
  /-- The first read of the closing snapshot is next. -/
  | closeCycle
  /-- The second read of the closing snapshot is next. -/
  | closeInstr
  /-- The delta and the comparison are next. -/
  | finish
deriving DecidableEq, Repr

/-- A request of the host (R57, R166), read between runs only (R66; log entry 9). -/
inductive HostReq where
  /-- `RUN(in_buf, N)` with its arguments (R165, R244). -/
  | run (a : RunArgs)
  /-- The host takes the results of the last run (R31, R165). -/
  | takeResults
  /-- One operation of the opcode table: an access, a control word or a codec call (R57, R95, R96). -/
  | op (f : Frame)
deriving DecidableEq, Repr

/-- The registers and the units, one explicit value (R20 groups 1 and 2, R138). `C_CTRL`, `D_CTRL`, `C_RST`, `D_RST`
store nothing and `C_STAT`, `D_STAT` are views of the units (R21 to R25). -/
structure World where
  /-- `cyc`, register `CYCLE` (R26). -/
  cyc : Nat
  /-- `ins`, register `INSTR` (R27). -/
  ins : Nat
  /-- `U_c`, the Compressor's hidden state (R28). -/
  unitC : UnitState
  /-- `U_d`, the Decompressor's hidden state (R28). -/
  unitD : UnitState
  /-- The register accesses made, latest first (R97). The model's own field: what the free draws are functions of. -/
  trace : List Access
deriving DecidableEq, Repr

/-- How many register accesses were made (R170). -/
def World.accesses (w : World) : Nat := w.trace.length

/-- The whole state of the block (R20). -/
structure State where
  /-- The registers and the units (R20 groups 1 and 2). -/
  world : World
  /-- The arguments of the current run, the parameters and `in_buf` among them (R35, R41, R244). -/
  args : RunArgs
  /-- `in_cur` (R30). -/
  inCur : Nat
  /-- `out_cur` (R30). -/
  outCur : Nat
  /-- `ticks` (R32). -/
  ticks : Nat
  /-- `phase` (R31). -/
  phase : Phase
  /-- `fault` (R33). -/
  fault : FaultCode
  /-- The information kept beside `fault` (R216). -/
  faultInfo : FaultInfo
  /-- `out_buf` (R36). -/
  outBuf : Memory
  /-- `mid`, the ghost log of transferred symbols (R37). -/
  mid : List Nat
  /-- `cst`, the Compressor's status in the tick in progress (R34). -/
  cst : Option Cst
  /-- `dst`, the Decompressor's status in the tick in progress (R34). -/
  dst : Option Dst
  /-- `s0`, the baseline sample (R38); no value until taken. -/
  s0 : Option Sample
  /-- `s1`, the closing sample (R38); no value until taken. -/
  s1 : Option Sample
  /-- `delta` (R38); no value until computed. -/
  delta : Option Sample
  /-- `mismatches` (R39); no value until `COMPARE` has run. -/
  mismatches : Option (List Mismatch)
  /-- The position inside `RUN`. The model's own field. -/
  seq : Seq
  /-- The host's requests not yet served. The model's own field. -/
  port : List HostReq
  /-- The word last returned to a caller (R52). The model's own field. -/
  rdata : Nat
  /-- The record a codec call last returned to its caller (R110). The model's own field. -/
  record : Option CodecRecord
deriving DecidableEq, Repr

/-- The parameters the block works with (R7 to R9, R41). -/
abbrev State.params (s : State) : Params := s.args.params

/-- Why a step stops the machine. No run reaches one (log entry 21); each marks a state that only a broken model could
be in, where the spec allows no value (R38: "a model that reads one earlier has a bug, not a value"). -/
inductive Fault where
  /-- The end of a run without both samples (R38). Raised by the last step of a run. Safe: no value is invented. -/
  | sampleMissing
  /-- The outcome of a tick without both status records (R34). Raised by the outcome step. Safe: no value is invented. -/
  | statusMissing
  /-- The head of a loop outside the phases `PUMP` and `DRAINING` (R150, R158, R160). Raised by the loop's step. Safe. -/
  | phaseOutsideLoop
deriving DecidableEq, Repr

/-- Why a step is refused. -/
inductive Refusal where
  /-- No meaning yet for the instruction of this mnemonic. Raised by `exec` only. Safe. -/
  | notModelled (mnemonic : String)
  /-- `UNDEFINED_ACCESS` (R57, R214, R219): an access outside the map or against a register's direction, with its
  direction and address. Raised by a host's access command. Safe: no effect and no value. -/
  | undefinedAccess (write : Bool) (addr : Nat)
  /-- A frame that stands for no instruction for another reason (R80, R90, R96). Raised by a host's operation. Safe. -/
  | badFrame (e : DecodeError)
  /-- A run whose arguments break R7 to R10 or R244 (2). Raised by the host's `RUN` request. Safe: no run starts. -/
  | illegalRunArgs
  /-- A run asked for when `phase` is not `IDLE` (R165: "A new run may start only from `IDLE`"). Safe: no run starts. -/
  | runNotFromIdle
  /-- An outcome row executed where its condition or the precondition of `TICK` does not hold (R150, R152 to R155): no
  rule gives it an effect there. Raised by the `TICK` rows; no run reaches it. Safe. -/
  | tickConditionFalse
deriving DecidableEq, Repr

/-- The outcome of an instruction or a step. -/
abbrev Result := Host.Outcome State Fault Refusal

/-- No arguments yet: the defaults of R7 to R9, R11 and R12 and an empty input (log entries 1 and 6). -/
def RunArgs.none : RunArgs where
  params := Params.default
  inBuf := []
  inCap := 0
  outCap := 0
  expectLen := 0
  termMode := .drainToLength
  tickBudget := Option.none

/-- The registers and units at power-on. DESIGN CHOICE, log entries 2, 3 and 5: the spec leaves every one unspecified
(R42, U17). -/
def World.reset : World where
  cyc := 0
  ins := 0
  unitC := []
  unitD := []
  trace := []

/-- The state at power-on: `phase` is `IDLE` and the results hold no value (R42, R38, R39); every other value is a DESIGN
CHOICE of log entries 5, 6, 7, 9 and 19. -/
def State.reset : State where
  world := World.reset
  args := RunArgs.none
  inCur := 0
  outCur := 0
  ticks := 0
  phase := .idle
  fault := .none
  faultInfo := .none
  outBuf := []
  mid := []
  cst := Option.none
  dst := Option.none
  s0 := Option.none
  s1 := Option.none
  delta := Option.none
  mismatches := Option.none
  seq := .idle
  port := []
  rdata := 0
  record := Option.none

end Sys2Proof.Machine
end

