-- ==== Sys2Proof/Machine/Ops.lean ====
section
/-! DEFINITION. The named operations: the register access primitive (R52, R56), the output buffer (R36), taking a fault
(`raise`, R216) and going on after one (R218), and the start of a run (R242). -/

namespace Sys2Proof.Machine

/-- What the environment does between two accesses, just before the second of them (R181, R60, R28): both counters advance
by their draws modulo `2^W`, both units take their internal steps. -/
def World.tickOver (p : Params) (e : Env) (w : World) : World :=
  { w with
    cyc := trunc p.W (w.cyc + e.cycleDraw w.trace)
    ins := trunc p.W (w.ins + e.instrDraw w.trace)
    unitC := e.compressor.advance w.trace w.unitC
    unitD := e.decompressor.advance w.trace w.unitD }

/-- One more access in the trace (R97). -/
def World.log (a : Access) (w : World) : World := { w with trace := a :: w.trace }

/-- The word a read returns at the instant of the access (R56); that of a reset read is a free value (R25). -/
def World.readWord (p : Params) (e : Env) (w : World) : ReadReg → Nat
  | .cStat => trunc p.W (e.compressor.status w.unitC)
  | .dStat => trunc p.W (e.decompressor.status w.unitD)
  | .cRst => trunc p.W (e.resetWord w.trace)
  | .dRst => trunc p.W (e.resetWord w.trace)
  | .cycle => w.cyc
  | .instr => w.ins

/-- What a read changes (R56): a reset read resets its unit, another read changes nothing. -/
def World.readEffect (e : Env) (w : World) : ReadReg → World
  | .cStat => w
  | .dStat => w
  | .cRst => { w with unitC := e.compressor.onReset w.unitC }
  | .dRst => { w with unitD := e.decompressor.onReset w.unitD }
  | .cycle => w
  | .instr => w

/-- What a write of the word `x` changes (R56). -/
def World.writeEffect (e : Env) (x : Nat) (w : World) : WriteReg → World
  | .cCtrl => { w with unitC := e.compressor.onCtrl w.unitC x }
  | .dCtrl => { w with unitD := e.decompressor.onCtrl w.unitD x }
  | .cycle => { w with cyc := x }
  | .instr => { w with ins := x }

/-- `RegRead` (R52, R56): one access; the word it returns and the registers and units after it. -/
def World.regRead (p : Params) (e : Env) (r : ReadReg) (w : World) : Nat × World :=
  let v := w.tickOver p e
  let x := v.readWord p e r
  (x, (v.readEffect e r).log (.read r x))

/-- `RegWrite` (R52, R56): one access, of one `W`-bit word; the registers and units after it. -/
def World.regWrite (p : Params) (e : Env) (r : WriteReg) (x : Nat) (w : World) : World :=
  let y := trunc p.W x
  ((w.tickOver p e).writeEffect e y r).log (.write r y)

/-- A read access of the machine: the word goes to `rdata` (R52). -/
def State.read (e : Env) (r : ReadReg) (s : State) : State :=
  let q := s.world.regRead s.params e r
  { s with world := q.2, rdata := q.1 }

/-- A write access of the machine (R52). -/
def State.write (e : Env) (r : WriteReg) (x : Nat) (s : State) : State :=
  { s with world := s.world.regWrite s.params e r x }

/-- The canonical form of the output buffer: indices strictly rising. An unlisted entry reads as `UNWRITTEN`, which is no
byte, so every listed byte differs from it. -/
abbrev Memory.wf (m : Memory) : Prop := m.Pairwise fun x y => x.1 < y.1

/-- `out_buf[i]` (R36): a byte, or `none` for `UNWRITTEN`. -/
def Memory.read : Memory → Nat → Option Byte
  | [], _ => none
  | (k, b) :: m, i => if i = k then some b else Memory.read m i

/-- `out_buf[i] <- b` (R15). -/
def Memory.write : Memory → Nat → Byte → Memory
  | [], i, b => [(i, b)]
  | (k, x) :: m, i, b =>
    if i < k then (i, b) :: (k, x) :: m
    else if i = k then (i, b) :: m
    else (k, x) :: Memory.write m i b

/-- `out_buf[i + k] <- bytes[k]` for every `k`, ascending (R154). -/
def Memory.writeBytes (m : Memory) (i : Nat) : List Byte → Memory
  | [] => m
  | b :: bs => Memory.writeBytes (m.write i b) (i + 1) bs

/-- `raise F(info)` (R216): the fault and its information are recorded, the operation, the tick, the loop and the run all
end, `phase` is `FAULTED`; nothing is rolled back. The status records are dead at the tick's end (R34). -/
def State.raise (f : FaultCode) (info : FaultInfo) (s : State) : State :=
  { s with fault := f, faultInfo := info, phase := .faulted, seq := .idle, cst := none, dst := none }

/-- There is no return from a fault (R218): the host takes the results of a run that ended `DONE` or `FAULTED`, and
`phase` is `IDLE` again (R31, R165). Taken in another phase there is nothing to take (log entry 27). -/
def State.takeResults (s : State) : State :=
  if s.phase = .done ∨ s.phase = .faulted then { s with phase := .idle } else s

/-- The arguments the host may start a run with (R7 to R10, R244 (2)): legal parameters, `N <= IN_CAP`,
`EXPECT_LEN <= OUT_CAP`. -/
def RunArgs.legal (a : RunArgs) : Bool :=
  a.params.legal && decide (a.inLen ≤ a.inCap ∧ a.expectLen ≤ a.outCap)

/-- The counters as words of `W` bits (R180), where a run fixes another `W` (log entry 1). -/
def World.resize (p : Params) (w : World) : World := { w with cyc := trunc p.W w.cyc, ins := trunc p.W w.ins }

/-- Run-start initialisation (R165, R242): cursors and `ticks` 0, `fault` NONE, every entry of `out_buf` `UNWRITTEN`. The
results hold no value until this run writes them (R38; log entry 15), the ghost log is empty (log entry 19), and the
unit resets come next. The parameters are the run's from here on (R244 (2)), the words kept are cut to its `W` (log
entry 1). -/
def State.startRun (a : RunArgs) (s : State) : State :=
  { s with
    world := s.world.resize a.params, args := a, inCur := 0, outCur := 0, ticks := 0, fault := .none
    faultInfo := .none, outBuf := [], mid := [], cst := none, dst := none, s0 := none, s1 := none, delta := none
    mismatches := none, seq := .resetC, rdata := trunc a.params.W s.rdata }

/-- The output sequence the host takes, entries `0` to `out_cur - 1` of `out_buf` (R36, R166). -/
def State.output (s : State) : List (Option Byte) := (List.range s.outCur).map s.outBuf.read

end Sys2Proof.Machine
end

