-- ==== Sys2Proof/Machine/Access.lean ====
section
/-! DEFINITION. The meanings of the ten access commands (R56, R90): one register access each. A write delivers its word
and returns nothing; a read's word goes to `rdata`. The form `…In` takes any environment (R138). -/

namespace Sys2Proof.Machine

/-- `WR.C_CTRL` (R56, R131): `U_c <- on_ctrl_c(U_c, v)`; nothing is stored (R21). -/
def wrCCtrlIn (e : Env) (v : Nat) (s : State) : Result := .next (s.write e .cCtrl v)
def execWrCCtrl (v : Nat) (s : State) : Result := wrCCtrlIn Config.env v s

/-- `WR.D_CTRL` (R56, R132): `U_d <- on_ctrl_d(U_d, v)`; nothing is stored (R22). -/
def wrDCtrlIn (e : Env) (v : Nat) (s : State) : Result := .next (s.write e .dCtrl v)
def execWrDCtrl (v : Nat) (s : State) : Result := wrDCtrlIn Config.env v s

/-- `RD.C_STAT` (R56, R133): returns `status_c(U_c)`; a pure observer. -/
def rdCStatIn (e : Env) (s : State) : Result := .next (s.read e .cStat)
def execRdCStat (s : State) : Result := rdCStatIn Config.env s

/-- `RD.D_STAT` (R56, R134): returns `status_d(U_d)`; a pure observer. -/
def rdDStatIn (e : Env) (s : State) : Result := .next (s.read e .dStat)
def execRdDStat (s : State) : Result := rdDStatIn Config.env s

/-- `RD.C_RST` (R56, R135): `U_c <- on_reset_c(U_c)`; the word returned is a free value. -/
def rdCRstIn (e : Env) (s : State) : Result := .next (s.read e .cRst)
def execRdCRst (s : State) : Result := rdCRstIn Config.env s

/-- `RD.D_RST` (R56, R136): `U_d <- on_reset_d(U_d)`; the word returned is a free value. -/
def rdDRstIn (e : Env) (s : State) : Result := .next (s.read e .dRst)
def execRdDRst (s : State) : Result := rdDRstIn Config.env s

/-- `RD.CYCLE` (R56, R26): returns `cyc`. -/
def rdCycleIn (e : Env) (s : State) : Result := .next (s.read e .cycle)
def execRdCycle (s : State) : Result := rdCycleIn Config.env s

/-- `WR.CYCLE` (R56, R26, R190): `cyc <- v`, whatever `v` is. -/
def wrCycleIn (e : Env) (v : Nat) (s : State) : Result := .next (s.write e .cycle v)
def execWrCycle (v : Nat) (s : State) : Result := wrCycleIn Config.env v s

/-- `RD.INSTR` (R56, R27): returns `ins`. -/
def rdInstrIn (e : Env) (s : State) : Result := .next (s.read e .instr)
def execRdInstr (s : State) : Result := rdInstrIn Config.env s

/-- `WR.INSTR` (R56, R27, R190): `ins <- v`, whatever `v` is. -/
def wrInstrIn (e : Env) (v : Nat) (s : State) : Result := .next (s.write e .instr v)
def execWrInstr (v : Nat) (s : State) : Result := wrInstrIn Config.env v s

end Sys2Proof.Machine
end

