-- ==== Sys2Proof/Machine/UnitInterface.lean ====
section
/-! DEFINITION. The Unit Interface (spec file 41): the six operations, each exactly one register access wrapped in one
codec call, on the explicit handle `World` (R138). -/

namespace Sys2Proof.Machine

/-- `C.writeInputs(f)` (R131). -/
def World.cWriteInputs (p : Params) (e : Env) (f : Cctl) (w : World) : World := w.regWrite p e .cCtrl (encCctl p f)

/-- `D.writeInputs(f)` (R132). -/
def World.dWriteInputs (p : Params) (e : Env) (f : Dctl) (w : World) : World := w.regWrite p e .dCtrl (encDctl p f)

/-- `C.readOutputs()` (R133). -/
def World.cReadOutputs (p : Params) (e : Env) (w : World) : Cst × World :=
  let q := w.regRead p e .cStat
  (decCst p q.1, q.2)

/-- `D.readOutputs()` (R134). -/
def World.dReadOutputs (p : Params) (e : Env) (w : World) : Dst × World :=
  let q := w.regRead p e .dStat
  (decDst p q.1, q.2)

/-- `C.reset()` (R135): the word it returns means nothing. -/
def World.cReset (p : Params) (e : Env) (w : World) : Nat × World := w.regRead p e .cRst

/-- `D.reset()` (R136): the word it returns means nothing. -/
def World.dReset (p : Params) (e : Env) (w : World) : Nat × World := w.regRead p e .dRst

/-- A control word to the Compressor from the machine (R131). -/
def State.cWriteInputs (e : Env) (f : Cctl) (s : State) : State :=
  { s with world := s.world.cWriteInputs s.params e f }

/-- A control word to the Decompressor from the machine (R132). -/
def State.dWriteInputs (e : Env) (f : Dctl) (s : State) : State :=
  { s with world := s.world.dWriteInputs s.params e f }

end Sys2Proof.Machine
end

