-- ==== Sys2Proof/Machine/Control.lean ====
section
/-! DEFINITION. The meanings of the arbiter's four control words (R96): each expands to one `writeInputs` with every
field given, which is one register write. -/

namespace Sys2Proof.Machine

/-- `C.FEED` (R96 row 1): the byte, zero-extended (R86). No cursor moves: that is the tick's `FEED` (R152). -/
def cFeedIn (e : Env) (b : Byte) (s : State) : Result := .next (s.cWriteInputs e (feedRecord b))
def execCFeed (b : Byte) (s : State) : Result := cFeedIn Config.env b s

/-- `C.ACK` (R96 row 2). -/
def cAckIn (e : Env) (s : State) : Result := .next (s.cWriteInputs e ackRecordC)
def execCAck (s : State) : Result := cAckIn Config.env s

/-- `D.INPUT` (R96 row 3): a symbol wider than its field is masked by the encoder (R111, R132). -/
def dInputIn (e : Env) (symbol : Nat) (s : State) : Result := .next (s.dWriteInputs e (inputRecord symbol))
def execDInput (symbol : Nat) (s : State) : Result := dInputIn Config.env symbol s

/-- `D.ACK` (R96 row 4). -/
def dAckIn (e : Env) (s : State) : Result := .next (s.dWriteInputs e ackRecordD)
def execDAck (s : State) : Result := dAckIn Config.env s

end Sys2Proof.Machine
end

