-- ==== Sys2Proof/Machine/Flags.lean ====
section
/-! DEFINITION. The one-bit flags a tick decides from (R40, R91) and the precondition of `TICK` (R150). -/

namespace Sys2Proof.Machine

/-- `more = (in_cur < N)` (R91). -/
def State.more (s : State) : Bool := decide (s.inCur < s.args.inLen)

/-- The decode vector of a tick with these status records (R91). -/
def State.vectorOf (s : State) (c : Cst) (d : Dst) : BitVec 5 :=
  tickBits s.more c.inputReady c.outputValid d.inputReady d.outputValid

/-- The decode vector of the tick in progress, once both status words are read (R150, R91). -/
def State.tickVector (s : State) : Option (BitVec 5) :=
  match s.cst, s.dst with
  | some c, some d => some (s.vectorOf c d)
  | _, _ => none

/-- The precondition of `TICK` (R150): `phase` is `PUMP` or `DRAINING` and `fault = NONE`. -/
def State.inRun (s : State) : Bool := decide ((s.phase = .pump ∨ s.phase = .draining) ∧ s.fault = .none)

/-- The tick in progress has this decode vector, so its row is the one that holds (R91, R150). -/
def State.tickReady (s : State) (t : BitVec 5) : Bool := s.inRun && decide (s.tickVector = some t)

end Sys2Proof.Machine
end

