-- ==== Sys2Proof/Machine/Operands.lean ====
section
/-! DEFINITION. The operands of the tick's outcomes (R86): the byte `FEED` takes, and the bytes inside
`DST.outputBits` (R120, R121). The records of the short forms stand in Decode.lean with their words. -/

namespace Sys2Proof.Machine

/-- `in_buf[in_cur]` (R152, R65): defined when `in_cur < N`. -/
def State.nextByte (s : State) : Option Byte := s.args.inBuf[s.inCur]?

/-- `UNPACK(outputBits, L)` (R120): the low `L` bytes of the field, most significant first. Its domain is `L` in 0, 1, 2;
`DRAIN` faults before calling it on another length (R156), and it gives no bytes there. -/
def unpack (o : Nat) : Nat → List Byte
  | 0 => []
  | 1 => [BitVec.ofNat 8 (fieldOf o 7 0)]
  | 2 => [BitVec.ofNat 8 (fieldOf o 15 8), BitVec.ofNat 8 (fieldOf o 7 0)]
  | _ => []

/-- `PACK(bytes)` (R121): the field and the length that unpack to `bytes`; defined for lists of at most two bytes. -/
def pack : List Byte → Option (Nat × Nat)
  | [] => some (0, 0)
  | [a] => some (a.toNat, 1)
  | [a, b] => some ((a.toNat <<< 8) + b.toNat, 2)
  | _ => none

end Sys2Proof.Machine
end

