-- ==== Sys2Proof/Machine/Perf.lean ====
section
/-! DEFINITION. The performance-counter bracket logic (spec file 43). -/

namespace Sys2Proof.Machine

/-- `PC_RESET()` (R183): two writes of zero, the cycle counter first. -/
def State.pcReset (e : Env) (s : State) : State := (s.write e .cycle 0).write e .instr 0

/-- `PC_SNAPSHOT()` (R184): two reads, the cycle counter first. -/
def State.pcSnapshot (e : Env) (s : State) : Sample × State :=
  let a := s.read e .cycle
  let b := a.read e .instr
  ({ cycleCount := a.rdata, instructionCount := b.rdata }, b)

/-- `PC_DELTA(s0, s1)` (R185): the difference modulo `2^W`. -/
def pcDelta (p : Params) (s0 s1 : Sample) : Sample where
  cycleCount := trunc p.W (s1.cycleCount + 2 ^ p.W - s0.cycleCount)
  instructionCount := trunc p.W (s1.instructionCount + 2 ^ p.W - s0.instructionCount)

/-- `BRACKET(region)` (R186). -/
def State.bracket (e : Env) (region : State → State) (s : State) : Sample × State :=
  let a := (s.pcReset e).pcSnapshot e
  let b := (region a.2).pcSnapshot e
  (pcDelta s.params a.1 b.1, b.2)

end Sys2Proof.Machine
end

