-- ==== Sys2Proof/Machine/Verifier.lean ====
section
/-! DEFINITION. The Round-Trip Verifier (spec file 44). -/

namespace Sys2Proof.Machine

/-- `out_buf[i]` if `i < OUT_CAP`, else `UNWRITTEN` (R200). -/
def outputAt (outCap : Nat) (m : Memory) (i : Nat) : Option Byte := if i < outCap then m.read i else none

/-- The records of `COMPARE` for the inputs from index `i` on (R200). -/
def compareFrom (outCap : Nat) (m : Memory) : Nat → List Byte → List Mismatch
  | _, [] => []
  | i, b :: bs =>
    let a := outputAt outCap m i
    if a = some b then compareFrom outCap m (i + 1) bs
    else { index := i, expected := b, actual := a } :: compareFrom outCap m (i + 1) bs

/-- `COMPARE(in_buf, N, out_buf)` (R200): one record for each index of the input where the output differs, ascending. -/
def compare (inBuf : List Byte) (outCap : Nat) (m : Memory) : List Mismatch := compareFrom outCap m 0 inBuf

end Sys2Proof.Machine
end

