-- ==== Sys2Proof/Machine/Pump.lean ====
section
/-! DEFINITION. The ready/valid handshake arbiter (spec file 42): the four outcomes, the tick, the budget check, and the
loops and the run as the pseudocode writes them. The machine's step goes through the same outcomes one access at a time
(Machine/Sequencer.lean). -/

namespace Sys2Proof.Machine

/-- `FEED` (R152): one byte to the Compressor, `in_cur` moves on. There is a byte, since `in_cur < N` (R65). -/
def State.feed (e : Env) (s : State) : State :=
  match s.nextByte with
  | some b => { s.cWriteInputs e (feedRecord b) with inCur := s.inCur + 1 }
  | none => s

/-- `XFER` (R153): acknowledge the Compressor, then hand the symbol of this tick's read to the Decompressor; two separate
accesses (R62). The ghost log gets the symbol (R37). -/
def State.xfer (e : Env) (c : Cst) (s : State) : State :=
  { (s.cWriteInputs e ackRecordC).dWriteInputs e (inputRecord c.outputBits) with mid := s.mid ++ [c.outputBits] }

/-- `DRAIN` (R154): acknowledge the Decompressor, then check the length (R156), then the capacity (R157), then store the
bytes at `out_cur`. -/
def State.drain (e : Env) (d : Dst) (s : State) : State :=
  let a := s.dWriteInputs e ackRecordD
  let len := d.dataOutLength
  if dsOutBytes < len then a.raise .lengthViolation (.length len)
  else if s.args.outCap < s.outCur + len then a.raise .outputOverflow (.overflow s.outCur len)
  else { a with outBuf := s.outBuf.writeBytes s.outCur (unpack d.outputBits len), outCur := s.outCur + len }

/-- The end of a tick (R150): it is counted unless its outcome raised a fault, its status records are dead (R34), and the
loop's head comes next. -/
def State.endTick (s : State) : State :=
  if s.fault = .none then { s with ticks := s.ticks + 1, cst := none, dst := none, seq := .loopHead } else s

/-- The outcome of a tick with these status records (R150, R167): `FEED`, else `XFER`, else `DRAIN`, else nothing. -/
def State.outcome (e : Env) (c : Cst) (d : Dst) (s : State) : State :=
  if c.inputReady && s.more then s.feed e
  else if c.outputValid && d.inputReady then s.xfer e c
  else if d.outputValid then s.drain e d
  else s

/-- `TICK` (R150), as the rule writes it: both status reads, the Compressor's first, then one outcome, then the count. -/
def State.tick (e : Env) (s : State) : State :=
  let a := s.read e .cStat
  let c := decCst s.params a.rdata
  let b := a.read e .dStat
  let d := decDst s.params b.rdata
  (b.outcome e c d).endTick

/-- The tick budget is used up (R162). -/
def State.budgetSpent (s : State) : Bool :=
  match s.args.tickBudget with
  | some n => decide (n ≤ s.ticks)
  | none => false

/-- `BUDGET_CHECK` (R162): it makes no register access. -/
def State.budgetCheck (s : State) : State :=
  if s.budgetSpent then s.raise .stallBudget (.ticks s.ticks) else s

/-- `PUMP_LOOP` (R158), at most `fuel` ticks of it: `none` when the loop has not ended by then. -/
def State.pumpLoop (e : Env) : Nat → State → Option State
  | 0, s => if s.more ∧ s.fault = .none then none else some s
  | n + 1, s =>
    if s.more ∧ s.fault = .none then
      let b := s.budgetCheck
      if b.fault = .none then State.pumpLoop e n (b.tick e) else State.pumpLoop e n b
    else some s

/-- `DRAIN_LOOP` (R160), at most `fuel` ticks of it. -/
def State.drainLoop (e : Env) : Nat → State → Option State
  | 0, s => if s.outCur < s.args.expectLen ∧ s.fault = .none then none else some s
  | n + 1, s =>
    if s.outCur < s.args.expectLen ∧ s.fault = .none then
      let b := s.budgetCheck
      if b.fault = .none then State.drainLoop e n (b.tick e) else State.drainLoop e n b
    else some s

/-- The end of a run without a fault (R165): the delta, the comparison, `phase` DONE. A non-empty list of mismatches is
no fault (R202). -/
def State.closeRun (a b : Sample) (s : State) : State :=
  { s with
    s1 := some b, delta := some (pcDelta s.params a b)
    mismatches := some (compare s.args.inBuf s.args.outCap s.outBuf), phase := .done, seq := .idle }

/-- `RUN(in_buf, N)` (R165), as the rule writes it, each loop given at most `fuel` ticks: `none` when a loop has not ended
by then (R211: such a run has no end state). -/
def State.runWhole (e : Env) (fuel : Nat) (args : RunArgs) (s : State) : Option State :=
  let s := s.startRun args
  let s := (s.read e .cRst).read e .dRst
  let p := (s.pcReset e).pcSnapshot e
  let s := { p.2 with s0 := some p.1, phase := .pump, seq := .loopHead }
  (s.pumpLoop e fuel).bind fun s =>
    (if s.fault = .none ∧ s.args.termMode = .drainToLength then State.drainLoop e fuel { s with phase := .draining }
      else some s).bind fun s =>
      if s.fault = .none then
        let q := s.pcSnapshot e
        some (q.2.closeRun p.1 q.1)
      else some s

end Sys2Proof.Machine
end

