-- ==== Sys2Proof/Machine/TickRows.lean ====
section
/-! DEFINITION. The meanings of the eleven rows of the tick decode table (R91): the outcome of the tick in progress, from
the two status records of its reads, and the end of the tick (R150). A row executed where its condition does not hold
has no effect given by any rule and is refused (log entry 13). -/

namespace Sys2Proof.Machine

/-- The row of decode vector `t` does its outcome when the tick in progress has that vector (R91, R150). -/
def State.tickRow (s : State) (t : BitVec 5) (outcome : Cst → Dst → State → State) : Result :=
  match s.cst, s.dst with
  | some c, some d => if s.tickReady t then .next (outcome c d s).endTick else .refused .tickConditionFalse
  | _, _ => .refused .tickConditionFalse

/-- `TICK.FEED` (R152). -/
def tickFeedIn (e : Env) (cOV dIR dOV : Bool) (s : State) : Result :=
  s.tickRow (tickBits true true cOV dIR dOV) fun _ _ s => s.feed e
def execTickFeed (cOV dIR dOV : Bool) (s : State) : Result := tickFeedIn Config.env cOV dIR dOV s

/-- `TICK.XFER.a` (R153): the input is used up. -/
def tickXferAIn (e : Env) (cIR dOV : Bool) (s : State) : Result :=
  s.tickRow (tickBits false cIR true true dOV) fun c _ s => s.xfer e c
def execTickXferA (cIR dOV : Bool) (s : State) : Result := tickXferAIn Config.env cIR dOV s

/-- `TICK.XFER.b` (R153): the Compressor is not ready. -/
def tickXferBIn (e : Env) (dOV : Bool) (s : State) : Result :=
  s.tickRow (tickBits true false true true dOV) fun c _ s => s.xfer e c
def execTickXferB (dOV : Bool) (s : State) : Result := tickXferBIn Config.env dOV s

/-- `TICK.DRAIN.a` (R154). -/
def tickDrainAIn (e : Env) (cIR dIR : Bool) (s : State) : Result :=
  s.tickRow (tickBits false cIR false dIR true) fun _ d s => s.drain e d
def execTickDrainA (cIR dIR : Bool) (s : State) : Result := tickDrainAIn Config.env cIR dIR s

/-- `TICK.DRAIN.b` (R154). -/
def tickDrainBIn (e : Env) (cIR : Bool) (s : State) : Result :=
  s.tickRow (tickBits false cIR true false true) fun _ d s => s.drain e d
def execTickDrainB (cIR : Bool) (s : State) : Result := tickDrainBIn Config.env cIR s

/-- `TICK.DRAIN.c` (R154). -/
def tickDrainCIn (e : Env) (dIR : Bool) (s : State) : Result :=
  s.tickRow (tickBits true false false dIR true) fun _ d s => s.drain e d
def execTickDrainC (dIR : Bool) (s : State) : Result := tickDrainCIn Config.env dIR s

/-- `TICK.DRAIN.d` (R154). -/
def tickDrainDIn (e : Env) (s : State) : Result :=
  s.tickRow (tickBits true false true false true) fun _ d s => s.drain e d
def execTickDrainD (s : State) : Result := tickDrainDIn Config.env s

/-- `TICK.IDLE.a` (R155): no action, the tick is counted. -/
def execTickIdleA (cIR dIR : Bool) (s : State) : Result :=
  s.tickRow (tickBits false cIR false dIR false) fun _ _ s => s

/-- `TICK.IDLE.b` (R155). -/
def execTickIdleB (cIR : Bool) (s : State) : Result :=
  s.tickRow (tickBits false cIR true false false) fun _ _ s => s

/-- `TICK.IDLE.c` (R155). -/
def execTickIdleC (dIR : Bool) (s : State) : Result :=
  s.tickRow (tickBits true false false dIR false) fun _ _ s => s

/-- `TICK.IDLE.d` (R155). -/
def execTickIdleD (s : State) : Result :=
  s.tickRow (tickBits true false true false false) fun _ _ s => s

end Sys2Proof.Machine
end

