-- ==== Sys2Proof/Machine/Words.lean ====
section
/-! DEFINITION. The meanings of the four layout rows: the codec called on a word (R80, R110). The call returns the word
`ENC_X` gives and the record `DEC_X` gives of it (R122); the codec is pure, so nothing else of the block changes and no
register is accessed (R110, log entry 11). -/

namespace Sys2Proof.Machine

/-- What a codec call returns to its caller. -/
def State.codecReturn (w : Nat) (r : CodecRecord) (s : State) : State := { s with rdata := w, record := some r }

/-- `CCTL` (R112, R113). -/
def execCctl (f : Cctl) (s : State) : Result :=
  let w := encCctl s.params f
  .next (s.codecReturn w (.cctl (decCctl s.params w)))

/-- `DCTL` (R114, R115). -/
def execDctl (f : Dctl) (s : State) : Result :=
  let w := encDctl s.params f
  .next (s.codecReturn w (.dctl (decDctl s.params w)))

/-- `CST` (R116, R117). -/
def execCst (f : Cst) (s : State) : Result :=
  let w := encCst s.params f
  .next (s.codecReturn w (.cst (decCst s.params w)))

/-- `DST` (R118, R119). -/
def execDst (f : Dst) (s : State) : Result :=
  let w := encDst s.params f
  .next (s.codecReturn w (.dst (decDst s.params w)))

end Sys2Proof.Machine
end

