-- ==== Sys2Proof/Machine/Dispatch.lean ====
section
/-! DEFINITION. One arm for each row of the opcode table. -/

namespace Sys2Proof.Machine

def exec (i : Instr) (s : State) : Host.Outcome State Fault Refusal :=
  match i with
  -- access commands (R90)
  | .wrCCtrl v => Sys2Proof.Machine.execWrCCtrl v s
  | .wrDCtrl v => Sys2Proof.Machine.execWrDCtrl v s
  | .rdCStat => Sys2Proof.Machine.execRdCStat s
  | .rdDStat => Sys2Proof.Machine.execRdDStat s
  | .rdCRst => Sys2Proof.Machine.execRdCRst s
  | .rdDRst => Sys2Proof.Machine.execRdDRst s
  | .rdCycle => Sys2Proof.Machine.execRdCycle s
  | .wrCycle v => Sys2Proof.Machine.execWrCycle v s
  | .rdInstr => Sys2Proof.Machine.execRdInstr s
  | .wrInstr v => Sys2Proof.Machine.execWrInstr v s
  -- word layouts (R81 to R84)
  | .cctl f => Sys2Proof.Machine.execCctl f s
  | .dctl f => Sys2Proof.Machine.execDctl f s
  | .cst f => Sys2Proof.Machine.execCst f s
  | .dst f => Sys2Proof.Machine.execDst f s
  -- the arbiter's control words (R96)
  | .cFeed b => Sys2Proof.Machine.execCFeed b s
  | .cAck => Sys2Proof.Machine.execCAck s
  | .dInput symbol => Sys2Proof.Machine.execDInput symbol s
  | .dAck => Sys2Proof.Machine.execDAck s
  -- the tick decode table (R91)
  | .tickFeed cOV dIR dOV => Sys2Proof.Machine.execTickFeed cOV dIR dOV s
  | .tickXferA cIR dOV => Sys2Proof.Machine.execTickXferA cIR dOV s
  | .tickXferB dOV => Sys2Proof.Machine.execTickXferB dOV s
  | .tickDrainA cIR dIR => Sys2Proof.Machine.execTickDrainA cIR dIR s
  | .tickDrainB cIR => Sys2Proof.Machine.execTickDrainB cIR s
  | .tickDrainC dIR => Sys2Proof.Machine.execTickDrainC dIR s
  | .tickDrainD => Sys2Proof.Machine.execTickDrainD s
  | .tickIdleA cIR dIR => Sys2Proof.Machine.execTickIdleA cIR dIR s
  | .tickIdleB cIR => Sys2Proof.Machine.execTickIdleB cIR s
  | .tickIdleC dIR => Sys2Proof.Machine.execTickIdleC dIR s
  | .tickIdleD => Sys2Proof.Machine.execTickIdleD s

end Sys2Proof.Machine
end

