-- ==== Sys2Proof/Machine/InEnv.lean ====
section
/-! DEFINITION. The instructions in any environment (R138: "so multiple simulated or mocked device instances can coexist
in tests"): the same meanings as `exec`, with the environment as an argument. -/

namespace Sys2Proof.Machine

/-- `exec` with the environment as an argument; at `Config.env` it is `exec`. -/
def execIn (e : Env) (i : Instr) (s : State) : Result :=
  match i with
  | .wrCCtrl v => wrCCtrlIn e v s
  | .wrDCtrl v => wrDCtrlIn e v s
  | .rdCStat => rdCStatIn e s
  | .rdDStat => rdDStatIn e s
  | .rdCRst => rdCRstIn e s
  | .rdDRst => rdDRstIn e s
  | .rdCycle => rdCycleIn e s
  | .wrCycle v => wrCycleIn e v s
  | .rdInstr => rdInstrIn e s
  | .wrInstr v => wrInstrIn e v s
  | .cctl f => execCctl f s
  | .dctl f => execDctl f s
  | .cst f => execCst f s
  | .dst f => execDst f s
  | .cFeed b => cFeedIn e b s
  | .cAck => cAckIn e s
  | .dInput symbol => dInputIn e symbol s
  | .dAck => dAckIn e s
  | .tickFeed cOV dIR dOV => tickFeedIn e cOV dIR dOV s
  | .tickXferA cIR dOV => tickXferAIn e cIR dOV s
  | .tickXferB dOV => tickXferBIn e dOV s
  | .tickDrainA cIR dIR => tickDrainAIn e cIR dIR s
  | .tickDrainB cIR => tickDrainBIn e cIR s
  | .tickDrainC dIR => tickDrainCIn e dIR s
  | .tickDrainD => tickDrainDIn e s
  | .tickIdleA cIR dIR => execTickIdleA cIR dIR s
  | .tickIdleB cIR => execTickIdleB cIR s
  | .tickIdleC dIR => execTickIdleC dIR s
  | .tickIdleD => execTickIdleD s

end Sys2Proof.Machine
end

