-- ==== Sys2Proof/Machine/Sequencer.lean ====
section
/-! DEFINITION. What the block does next (R165, R150, R158, R160): the instruction it fetches, from the run's fixed
sequence, from the tick decode table or from the host's port, or a move of the sequencer that accesses no register; what
the sequencer does once the instruction is done; and where a table word is placed so that the next step runs it. -/

namespace Sys2Proof.Machine

/-- What a step does next. -/
inductive NextOp where
  /-- Run this instruction. -/
  | instr (i : Instr)
  /-- A move of the sequencer alone: no register is accessed. -/
  | silent (s : State)
  | fault (f : Fault)
  | refuse (r : Refusal)
deriving DecidableEq, Repr

/-- The refusal of a frame that stands for no instruction (R57, R93). -/
def refusalOf : DecodeError → Refusal
  | .undefinedAccess write addr => .undefinedAccess write addr
  | .notCommand cmd => .badFrame (.notCommand cmd)
  | .notWord w => .badFrame (.notWord w)
  | .dataMissing => .badFrame .dataMissing
  | .dataUnexpected => .badFrame .dataUnexpected
  | .notShortForm u w => .badFrame (.notShortForm u w)

/-- The instruction of a frame, fetched. -/
def fetchFrame (p : Params) (f : Frame) : NextOp :=
  match decode p f with
  | .ok i => .instr i
  | .error r => .refuse (refusalOf r)

/-- Between runs: the host's next request. A run starts from `IDLE` only (R165) and with legal arguments (R244). With no
request nothing happens (log entry 22). -/
def State.serveHost (s : State) : NextOp :=
  match s.port with
  | [] => .silent s
  | .run a :: rest =>
    if s.phase = .idle then
      if a.legal then .silent ({ s with port := rest }.startRun a) else .refuse .illegalRunArgs
    else .refuse .runNotFromIdle
  | .takeResults :: rest => .silent { s with port := rest }.takeResults
  | .op f :: _ => fetchFrame s.params f

/-- The head of a loop whose condition holds: the budget check, then the tick's first read (R158, R160, R162). -/
def State.beginTick (s : State) : NextOp :=
  if s.budgetSpent then .silent s.budgetCheck else .instr .rdCStat

/-- The end of `PUMP_LOOP` (R165): the drain phase or, with `INPUT_ONLY`, the closing snapshot. -/
def State.leavePump (s : State) : State :=
  if s.args.termMode = .drainToLength then { s with phase := .draining } else { s with seq := .closeCycle }

/-- The head of the loop of the current phase (R158, R160, R165). -/
def State.atLoopHead (s : State) : NextOp :=
  match s.phase with
  | .pump =>
    if s.fault = .none then if s.more then s.beginTick else .silent s.leavePump
    else .silent { s with phase := .faulted, seq := .idle }
  | .draining =>
    if s.fault = .none then
      if s.outCur < s.args.expectLen then s.beginTick else .silent { s with seq := .closeCycle }
    else .silent { s with phase := .faulted, seq := .idle }
  | _ => .fault .phaseOutsideLoop

/-- The outcome of the tick in progress, fetched from the tick decode table by its decode vector (R91, R150). -/
def State.fetchOutcome (s : State) : NextOp :=
  match s.tickVector with
  | some t => fetchFrame s.params (.tick t)
  | none => .fault .statusMissing

/-- What comes next (R165). -/
def State.nextOp (s : State) : NextOp :=
  match s.seq with
  | .idle => s.serveHost
  | .resetC => .instr .rdCRst
  | .resetD => .instr .rdDRst
  | .clearCycle => .instr (.wrCycle 0)
  | .clearInstr => .instr (.wrInstr 0)
  | .baseCycle => .instr .rdCycle
  | .baseInstr => .instr .rdInstr
  | .loopHead => s.atLoopHead
  | .readD => .instr .rdDStat
  | .decide => s.fetchOutcome
  | .closeCycle => .instr .rdCycle
  | .closeInstr => .instr .rdInstr
  | .finish =>
    match s.s0, s.s1 with
    | some a, some b => .silent (s.closeRun a b)
    | _, _ => .fault .sampleMissing

/-- The state an instruction runs in: a host's operation leaves the port as it is fetched. -/
def State.issued (s : State) : State := if s.seq = .idle then { s with port := s.port.tail } else s

/-- What the sequencer does once an instruction fetched in state `s` has led to `t` (R165, R150): the next position, the
samples, the status records. The baseline's second read starts the pump. A host's operation and a tick's outcome need
nothing more. -/
def State.afterOp (s t : State) : State :=
  match s.seq with
  | .resetC => { t with seq := .resetD }
  | .resetD => { t with seq := .clearCycle }
  | .clearCycle => { t with seq := .clearInstr }
  | .clearInstr => { t with seq := .baseCycle }
  | .baseCycle => { t with seq := .baseInstr }
  | .baseInstr =>
    { t with s0 := some { cycleCount := s.rdata, instructionCount := t.rdata }, phase := .pump, seq := .loopHead }
  | .loopHead => { t with cst := some (decCst t.params t.rdata), seq := .readD }
  | .readD => { t with dst := some (decDst t.params t.rdata), seq := .decide }
  | .closeCycle => { t with seq := .closeInstr }
  | .closeInstr => { t with s1 := some { cycleCount := s.rdata, instructionCount := t.rdata }, seq := .finish }
  | .idle => t
  | .decide => t
  | .finish => t

/-- A host's operation in the table's form, first in the port of a block that runs nothing. The table stands at the default
parameters (R98), so the block does. -/
def State.placeOp (f : Frame) (s : State) : State :=
  { s with seq := .idle, port := .op f :: s.port, args := { s.args with params := Params.default } }

/-- A tick in progress whose decode vector is `t`: both status words read with the flags of `t`, and a byte left to feed
or none (R91). `more = 0` is reached only while draining (R91). -/
def State.placeTick (t : BitVec 5) (s : State) : State :=
  let more := flagOf t.toNat 4
  { s with
    seq := .decide
    phase := if more then .pump else .draining
    fault := .none
    args := { s.args with inBuf := if more then [0] else [] }
    inCur := 0
    cst := some { inputReady := flagOf t.toNat 3, outputValid := flagOf t.toNat 2, outputBits := 0 }
    dst := some {
      inputReady := flagOf t.toNat 1, outputValid := flagOf t.toNat 0, outputBits := 0, dataOutLength := 0 } }

/-- A frame where the next step fetches it. -/
def State.placeFrame (f : Frame) (s : State) : State :=
  match f with
  | .tick t => s.placeTick t
  | .access cmd data => s.placeOp (.access cmd data)
  | .layout l w => s.placeOp (.layout l w)
  | .control u w => s.placeOp (.control u w)

/-- The bits of a table row where the next step fetches them; bits that are no frame change nothing. -/
def State.placeTableWord (s : State) (nbits w : Nat) : State :=
  match tableFrame nbits w with
  | some f => s.placeFrame f
  | none => s

end Sys2Proof.Machine
end

