-- ==== Sys2Proof/Machine/Step.lean ====
section
/-! DEFINITION. One step of the block: fetch what comes next, run it, let the sequencer go on. -/

namespace Sys2Proof.Machine

/-- One step over a given meaning of the instructions. -/
def stepWith (ex : Instr → State → Result) (s : State) : Result :=
  match s.nextOp with
  | .silent t => .next t
  | .fault f => .fault f
  | .refuse r => .refused r
  | .instr i =>
    match ex i s.issued with
    | .next t => .next (s.afterOp t)
    | .fault f => .fault f
    | .refused r => .refused r

/-- One step of the machine. -/
def step (s : State) : Host.Outcome State Fault Refusal := stepWith exec s

/-- One step in a given environment (R138). -/
def stepIn (e : Env) (s : State) : Result := stepWith (execIn e) s

/-- `n` steps in a given environment, stopping at the first fault or refusal. -/
def runIn (e : Env) : Nat → State → Result
  | 0, s => .next s
  | n + 1, s =>
    match stepIn e s with
    | .next t => runIn e n t
    | .fault f => .fault f
    | .refused r => .refused r

/-- The state with the bits of a table row stored where the next step fetches its instruction: the host's port, or, for a
tick row, the status records of a tick in progress (log entries 9 and 10). -/
def State.withFetchWord (s : State) (nbits w : Nat) : State := s.placeTableWord nbits w

end Sys2Proof.Machine
end

