-- ==== Sys2Proof/Machine/Fixtures.lean ====
section
/-! DEFINITION. The test environments of spec file 95 section 3 (D29): identity units, scripted units, the dead unit and
the counter environment. "They are not a description of the accelerator"; the machine does not use them, the end-to-end
law (R171) and the stall (R211) are stated of them. -/

namespace Sys2Proof.Machine

/-- The value in a mock's one slot: none for `EMPTY`. -/
def slotOf : UnitState → List Nat
  | [] => []
  | v :: _ => [v]

/-- `MockC`: one slot, `EMPTY` or `FULL(v)`; `stop` is ignored (95 section 3). -/
def mockC (p : Params) : UnitEnv where
  status := fun u =>
    match u with
    | [] => encCst p { inputReady := true, outputValid := false, outputBits := 0 }
    | v :: _ => encCst p { inputReady := false, outputValid := true, outputBits := v }
  onCtrl := fun u w =>
    match u with
    | [] => if (decCctl p w).inputValid then [(decCctl p w).inputBits] else []
    | v :: r => if (decCctl p w).outputReady then [] else v :: r
  onReset := fun _ => []
  advance := fun _ u => u
  accepted := slotOf
  waiting := fun u => (slotOf u).map (trunc p.csOutW)

/-- `MockD`: one slot; it mirrors its input with `dataOutLength = 1` (95 section 3). -/
def mockD (p : Params) : UnitEnv where
  status := fun u =>
    match u with
    | [] => encDst p { inputReady := true, outputValid := false, outputBits := 0, dataOutLength := 0 }
    | v :: _ => encDst p { inputReady := false, outputValid := true, outputBits := trunc 16 v, dataOutLength := 1 }
  onCtrl := fun u w =>
    match u with
    | [] => if (decDctl p w).inputValid then [(decDctl p w).inputBits] else []
    | v :: r => if (decDctl p w).outputReady then [] else v :: r
  onReset := fun _ => []
  advance := fun _ u => u
  accepted := slotOf
  waiting := fun u => (slotOf u).map (trunc 8)

/-- The dead unit: its status is always 0 (95 section 3). -/
def deadUnit : UnitEnv where
  status := fun _ => 0
  onCtrl := fun u _ => u
  onReset := fun u => u
  advance := fun _ u => u
  accepted := fun _ => []
  waiting := fun _ => []

/-- An access is a read of this register. -/
def isReadOf (r : ReadReg) : Access → Bool
  | .read r' _ => r' == r
  | .write _ _ => false

/-- A scripted unit: the `k`-th read of its status register `r` returns the `k`-th word of the script, 0 after the last
(95 section 3). -/
def scriptedUnit (r : ReadReg) (script : List Nat) : UnitEnv where
  status := fun u => script.getD (u.headD 0) 0
  onCtrl := fun u _ => u
  onReset := fun u => u
  advance := fun h _ => [h.countP (isReadOf r)]
  accepted := fun _ => []
  waiting := fun _ => []

/-- Two units with any draws. -/
def unitsEnv (c d : UnitEnv) (dc di : List Access → Nat) (resetWord : List Access → Nat) : Env where
  compressor := c
  decompressor := d
  cycleDraw := dc
  instrDraw := di
  resetWord := resetWord

/-- Two units with the counter environment `Clock(dc, di)`: the same draws before every access (95 section 3). -/
def clockEnv (c d : UnitEnv) (dc di : Nat) : Env := unitsEnv c d (fun _ => dc) (fun _ => di) fun _ => 0

end Sys2Proof.Machine
end

