-- ==== Sys2Proof/WellFormed.lean ====
section
/-! DEFINITION. When an instruction's operands fit their fields (R111), so that its encoding loses nothing. -/

namespace Sys2Proof

/-- Every numeric operand fits its field (R111) and every data word has at most `W` bits (R90); operands typed by their
width always fit. -/
def Instr.wellFormed (p : Params) : Instr → Bool
  | .wrCCtrl v => decide (v < 2 ^ p.W)
  | .wrDCtrl v => decide (v < 2 ^ p.W)
  | .rdCStat => true
  | .rdDStat => true
  | .rdCRst => true
  | .rdDRst => true
  | .rdCycle => true
  | .wrCycle v => decide (v < 2 ^ p.W)
  | .rdInstr => true
  | .wrInstr v => decide (v < 2 ^ p.W)
  | .cctl f => fitsCctl p f
  | .dctl f => fitsDctl p f
  | .cst f => fitsCst p f
  | .dst f => fitsDst p f
  | .cFeed _ => true
  | .cAck => true
  | .dInput s => decide (s < 2 ^ p.dcInW)
  | .dAck => true
  | .tickFeed _ _ _ => true
  | .tickXferA _ _ => true
  | .tickXferB _ => true
  | .tickDrainA _ _ => true
  | .tickDrainB _ => true
  | .tickDrainC _ => true
  | .tickDrainD => true
  | .tickIdleA _ _ => true
  | .tickIdleB _ => true
  | .tickIdleC _ => true
  | .tickIdleD => true

end Sys2Proof
end

