-- ==== Sys2Proof/Safety.lean ====
section
/-! DEFINITION. What claims are stated in: when a run counts as finished (R219), the named premises about the environment
(spec file 92, never built into a step), the invariant of the machine (R168, R31, R33, R34, R38, R180), sums of draws
(R186). -/

namespace Sys2Proof

/-- A frame with the reserved bits of a control word under its layout cleared (R81, R82, R93 (2)). -/
def Frame.cleared (p : Params) : Frame → Frame
  | .access cmd data => .access cmd data
  | .layout .cctl w => .layout .cctl (trunc (3 + p.ccInW) w)
  | .layout .dctl w => .layout .dctl (trunc (2 + p.dcInW) w)
  | .layout .cst w => .layout .cst w
  | .layout .dst w => .layout .dst w
  | .control u w => .control u w
  | .tick t => .tick t

end Sys2Proof

namespace Sys2Proof.Machine

/-- A finished run: `phase` is `DONE` and `fault = NONE`; a faulted run is not a finished run (R219). -/
def State.finished (s : State) : Prop := s.phase = .done ∧ s.fault = .none

/-- The four outcomes of a tick (R91). -/
inductive TickKind where
  | feed
  | xfer
  | drain
  | idle
deriving DecidableEq, Repr

/-- The outcome a tick row stands for (R91). -/
def tickKind : Instr → Option TickKind
  | .wrCCtrl _ => none
  | .wrDCtrl _ => none
  | .rdCStat => none
  | .rdDStat => none
  | .rdCRst => none
  | .rdDRst => none
  | .rdCycle => none
  | .wrCycle _ => none
  | .rdInstr => none
  | .wrInstr _ => none
  | .cctl _ => none
  | .dctl _ => none
  | .cst _ => none
  | .dst _ => none
  | .cFeed _ => none
  | .cAck => none
  | .dInput _ => none
  | .dAck => none
  | .tickFeed _ _ _ => some .feed
  | .tickXferA _ _ => some .xfer
  | .tickXferB _ => some .xfer
  | .tickDrainA _ _ => some .drain
  | .tickDrainB _ => some .drain
  | .tickDrainC _ => some .drain
  | .tickDrainD => some .drain
  | .tickIdleA _ _ => some .idle
  | .tickIdleB _ => some .idle
  | .tickIdleC _ => some .idle
  | .tickIdleD => some .idle

/-- The condition of the loop of the current phase (R158, R160). -/
def State.loopGoes (s : State) : Bool :=
  match s.phase with
  | .pump => s.more
  | .draining => decide (s.outCur < s.args.expectLen)
  | _ => false

/-- The same state with a tick budget (R12). -/
def State.withBudget (b : Option Nat) (s : State) : State := { s with args := { s.args with tickBudget := b } }

/-- The same state with other counter values (R26, R27). -/
def State.withCounters (c i : Nat) (s : State) : State := { s with world := { s.world with cyc := c, ins := i } }

/-- The same state with other host requests. -/
def State.withPort (p : List HostReq) (s : State) : State := { s with port := p }

/-- The sum of the draws before each of the accesses `new`, latest first, made after the accesses `h` (R186). -/
def drawSum (draw : List Access → Nat) (h : List Access) : List Access → Nat
  | [] => 0
  | _ :: new => drawSum draw h new + draw (new ++ h)

/-- The record the Compressor's status shows in a hidden state (R23, R28). -/
def statusC (p : Params) (e : Env) (u : UnitState) : Cst := decCst p (trunc p.W (e.compressor.status u))

/-- The record the Decompressor's status shows in a hidden state (R24, R28). -/
def statusD (p : Params) (e : Env) (u : UnitState) : Dst := decDst p (trunc p.W (e.decompressor.status u))

/-- `UnitLengthLegal` (92): every decompressor status word with `outputValid = 1` has `dataOutLength <= 2`. -/
def UnitLengthLegal (p : Params) (e : Env) : Prop :=
  ∀ u, (statusD p e u).outputValid = true → (statusD p e u).dataOutLength ≤ dsOutBytes

/-- A unit as its status and control words show it: what the premises of 92 say of either unit, they say of this. -/
structure UnitPort where
  /-- The unit's functions (R28). -/
  unit : UnitEnv
  /-- What a write of its control register does: `on_ctrl` with a word of `W` bits. -/
  ctrl : UnitState → Nat → UnitState
  /-- Its status shows `inputReady`. -/
  inputReady : UnitState → Bool
  /-- Its status shows `outputValid`. -/
  outputValid : UnitState → Bool
  /-- The output data its status shows, one number for each datum, the first to be given up first. -/
  shown : UnitState → List Nat
  /-- The input a control word offers: `inputBits` of a word with `inputValid`. -/
  offers : Nat → Option Nat
  /-- A control word has `outputReady`. -/
  takes : Nat → Bool

/-- The Compressor: its output data is the symbol in `outputBits` (R83, R81). -/
def portC (p : Params) (e : Env) : UnitPort where
  unit := e.compressor
  ctrl := fun u w => e.compressor.onCtrl u (trunc p.W w)
  inputReady := fun u => (statusC p e u).inputReady
  outputValid := fun u => (statusC p e u).outputValid
  shown := fun u => [(statusC p e u).outputBits]
  offers := fun w => if (decCctl p w).inputValid then some (decCctl p w).inputBits else none
  takes := fun w => (decCctl p w).outputReady

/-- The Decompressor: its output data are the bytes packed in `outputBits`, none for `dataOutLength = 0` (R84, R82, R120,
R123). -/
def portD (p : Params) (e : Env) : UnitPort where
  unit := e.decompressor
  ctrl := fun u w => e.decompressor.onCtrl u (trunc p.W w)
  inputReady := fun u => (statusD p e u).inputReady
  outputValid := fun u => (statusD p e u).outputValid
  shown := fun u => (unpack (statusD p e u).outputBits (statusD p e u).dataOutLength).map BitVec.toNat
  offers := fun w => if (decDctl p w).inputValid then some (decDctl p w).inputBits else none
  takes := fun w => (decDctl p w).outputReady

/-- What happens to a unit between two instants (R28, R60): internal steps before an access that follows the accesses `h`,
or a control word. A reset read of the unit itself is not among the events: DESIGN CHOICE, log entry 28, for accepting;
DEDUCED, log entry 24, for keeping and giving up. -/
inductive UnitEvent where
  | advance (h : List Access)
  | control (w : Nat)
deriving DecidableEq, Repr

/-- A unit's state after some events, the earliest first. -/
def UnitPort.after (x : UnitPort) : List UnitEvent → UnitState → UnitState
  | [], u => u
  | .advance h :: es, u => x.after es (x.unit.advance h u)
  | .control w :: es, u => x.after es (x.ctrl u w)

/-- The events hand the unit no control word. -/
def noControl (es : List UnitEvent) : Prop := ∀ w, .control w ∉ es

/-- The events hand the unit no word with `outputReady`. -/
def UnitPort.notTaken (x : UnitPort) (es : List UnitEvent) : Prop := ∀ w, .control w ∈ es → x.takes w = false

/-- After `on_reset` and any internal steps the unit reports `inputReady = 1`, `outputValid = 0` and holds no data (R241). -/
def UnitPort.CleanAfterReset (x : UnitPort) : Prop :=
  ∀ u es, noControl es → let v := x.after es (x.unit.onReset u)
    x.inputReady v = true ∧ x.outputValid v = false ∧ x.unit.accepted v = [] ∧ x.unit.waiting v = []

/-- A unit whose status showed `inputReady` accepts the word with `inputValid` of the next write to its control register:
its datum is in the unit then (R252). Between the two come internal steps, before whatever other accesses. Whether a reset
read of the unit itself may come between too is left open by the spec; here it may not. DESIGN CHOICE, log entry 28. -/
def UnitPort.Accepts (x : UnitPort) : Prop :=
  ∀ u es w b, x.inputReady u = true → noControl es → x.offers w = some b → x.takes w = false →
    let v := x.after es u
    x.unit.accepted (x.ctrl v w) = x.unit.accepted v ++ [b]

/-- A unit whose status showed `outputValid` with some data keeps both until it receives a word with `outputReady` (R252).
A reset read of the unit itself does not come between, since the identity units, which keep nothing over one, satisfy the
premise (95 section 3). DEDUCED, log entry 24. -/
def UnitPort.Keeps (x : UnitPort) : Prop :=
  ∀ u es, x.outputValid u = true → x.notTaken es → let v := x.after es u
    x.outputValid v = true ∧ x.shown v = x.shown u

/-- A unit that showed `outputValid` gives up exactly the data it showed at the word with `outputReady` (R252). As in
`Keeps`, a reset read of the unit itself does not come between. DEDUCED, log entry 24. -/
def UnitPort.GivesUp (x : UnitPort) : Prop :=
  ∀ u es w, x.outputValid u = true → x.notTaken es → x.takes w = true → x.offers w = none → let v := x.after es u
    x.unit.waiting v = x.shown u ++ x.unit.waiting (x.ctrl v w)

/-- The three clauses of `UnitsHoldHandshake` (92) for one unit. -/
def UnitPort.HoldsHandshake (x : UnitPort) : Prop := x.Accepts ∧ x.Keeps ∧ x.GivesUp

/-- `UnitsCleanAfterReset` (92, R241). -/
def UnitsCleanAfterReset (p : Params) (e : Env) : Prop := (portC p e).CleanAfterReset ∧ (portD p e).CleanAfterReset

/-- `UnitsHoldHandshake` (92, R252, R253), with the readings of log entries 24 and 28. -/
def UnitsHoldHandshake (p : Params) (e : Env) : Prop := (portC p e).HoldsHandshake ∧ (portD p e).HoldsHandshake

/-- The accesses since the last finished `PC_RESET`, its two writes among them, latest first (R183). -/
def sincePcReset : List Access → Option (List Access)
  | .write .instr 0 :: .write .cycle 0 :: _ => some [.write .instr 0, .write .cycle 0]
  | a :: h => (sincePcReset h).map (a :: ·)
  | [] => none

/-- The accesses since the last `PC_RESET` began: when its first write is the latest access, it is in progress (R183). -/
def sinceReset (h : List Access) : Option (List Access) :=
  match h with
  | .write .cycle 0 :: _ => some [.write .cycle 0]
  | _ => sincePcReset h

/-- `CountersDeterministic` (92, R182): the draws are a fixed function of the sequence of accesses made since the last
`PC_RESET`. -/
def CountersDeterministic (e : Env) : Prop :=
  ∃ f g : List Access → Nat, ∀ h k, sinceReset h = some k → e.cycleDraw h = f k ∧ e.instrDraw h = g k

/-- `Responsive` (92, R211), for the run a state is in: whenever a loop goes on, a later tick is not `IDLE`, and at least
`EXPECT_LEN` bytes come out in the end (log entry 24). -/
def Responsive (e : Env) (s : State) : Prop :=
  (∀ n t, runIn e n s = .next t → t.seq = .loopHead → t.loopGoes = true →
    ∃ m u i v, runIn e m t = .next u ∧ u.seq = .decide ∧ u.tickVector = some v ∧ decodeTick v = i ∧
      tickKind i ≠ some .idle)
  ∧ ∃ n t, runIn e n s = .next t ∧ s.args.expectLen ≤ t.outCur

/-- The positions before the pump (R165). -/
def Seq.isPrologue : Seq → Bool
  | .resetC => true
  | .resetD => true
  | .clearCycle => true
  | .clearInstr => true
  | .baseCycle => true
  | .baseInstr => true
  | .idle => false
  | .loopHead => false
  | .readD => false
  | .decide => false
  | .closeCycle => false
  | .closeInstr => false
  | .finish => false

/-- The positions after the loops (R165). -/
def Seq.isEpilogue : Seq → Bool
  | .closeCycle => true
  | .closeInstr => true
  | .finish => true
  | .idle => false
  | .resetC => false
  | .resetD => false
  | .clearCycle => false
  | .clearInstr => false
  | .baseCycle => false
  | .baseInstr => false
  | .loopHead => false
  | .readD => false
  | .decide => false

/-- The counters are words (R180). -/
def World.fits (p : Params) (w : World) : Prop := w.cyc < 2 ^ p.W ∧ w.ins < 2 ^ p.W

/-- Both counts of a sample are words (R38). -/
def Sample.fits (p : Params) (x : Sample) : Prop := x.cycleCount < 2 ^ p.W ∧ x.instructionCount < 2 ^ p.W

/-- The invariant of the machine. It rules out the states no run reaches. -/
structure State.Inv (s : State) : Prop where
  /-- The output buffer is in canonical form. -/
  outWf : s.outBuf.wf
  /-- Entries `0` to `out_cur - 1` are bytes (R168). -/
  written : ∀ i, i < s.outCur → (s.outBuf.read i).isSome = true
  /-- Entries from `out_cur` up are `UNWRITTEN` (R168). -/
  unwritten : ∀ i, s.outCur ≤ i → s.outBuf.read i = none
  /-- `in_cur <= N` (R30, R168). -/
  inBound : s.inCur ≤ s.args.inLen
  /-- `out_cur <= OUT_CAP` (R30, R168). -/
  outBound : s.outCur ≤ s.args.outCap
  /-- The counters are words (R180). -/
  countersFit : s.world.fits s.params
  /-- The word last returned is a word (R52). -/
  rdataFits : s.rdata < 2 ^ s.params.W
  /-- The samples and the delta are words (R38, R190). -/
  samplesFit : ∀ x, s.s0 = some x ∨ s.s1 = some x ∨ s.delta = some x → x.fits s.params
  /-- The status records are those of words (R34, R117, R119). -/
  recordsFit : (∀ c, s.cst = some c → fitsCst s.params c = true) ∧ ∀ d, s.dst = some d → fitsDst s.params d = true
  /-- The arguments are ones a run may start with (R244). -/
  argsLegal : s.args.legal = true
  /-- No more ticks than the budget (R162). -/
  budget : ∀ n, s.args.tickBudget = some n → s.ticks ≤ n
  /-- A tick in progress is within the budget (R162). -/
  tickBudgeted : s.seq = .readD ∨ s.seq = .decide → ∀ n, s.args.tickBudget = some n → s.ticks < n
  /-- Between runs `phase` is `IDLE`, `DONE` or `FAULTED` (R31). -/
  phaseIdle : s.seq = .idle → s.phase = .idle ∨ s.phase = .done ∨ s.phase = .faulted
  /-- Before the pump `phase` is still `IDLE` (R165). -/
  phasePrologue : s.seq.isPrologue = true → s.phase = .idle
  /-- From the pump's start to the run's end `phase` is `PUMP` or `DRAINING` (R165). -/
  phaseLoop : s.seq ≠ .idle → s.seq.isPrologue = false → s.phase = .pump ∨ s.phase = .draining
  /-- In `DRAINING` the input is used up (R161). -/
  drained : s.phase = .draining → s.inCur = s.args.inLen
  /-- The fault register is set exactly when the last run ended with a fault (R31, R33). -/
  faulted : s.phase = .faulted → s.fault ≠ .none
  /-- A run in progress or ended `DONE` has no fault (R33, R31). -/
  noFault : s.seq ≠ .idle ∨ s.phase = .done → s.fault = .none
  /-- The Compressor's status record is there exactly inside a tick (R34). -/
  cstLive : s.cst.isSome = true ↔ s.seq = .readD ∨ s.seq = .decide
  /-- The Decompressor's status record is there exactly before the outcome (R34). -/
  dstLive : s.dst.isSome = true ↔ s.seq = .decide
  /-- The baseline is there from the pump's start on (R38). -/
  s0Taken : s.seq ≠ .idle → s.seq.isPrologue = false → s.s0.isSome = true
  /-- The closing sample is there at the run's last step (R38). -/
  s1Taken : s.seq = .finish → s.s1.isSome = true
  /-- The results hold no value while the run is in progress (R38, R39). -/
  noResults : s.seq ≠ .idle → s.delta = none ∧ s.mismatches = none

end Sys2Proof.Machine
end

