-- ==== Sys2Proof/Certificates/Slice0/Obligations.lean ====
section
/-! DEFINITION. The statements for the provers, from the spec's numbered rules. Nothing is proved here. A statement about
an environment `e` holds of the machine's own, which is `Config.env` (`MachineIsItsOwnEnvironment`). -/

open Sys2Proof Sys2Proof.Machine

/-! ## Access commands -/

/-- R56: the effect of each of the ten allowed accesses, from every state, for every value of the parameters and every word
written; all ten answer a next state, and nothing but what the rule names changes: no cursor, no buffer byte, no fault, no
result. The trace gets the access. What comes before the access, `tickOver`, is `CountersAdvanceBeforeEveryAccess`. A word
is a number below `2^W`; the words the free functions of the environment show are cut to it. The word a reset read returns
is a free value. Covers WR.C_CTRL, WR.D_CTRL, RD.C_STAT, RD.D_STAT, RD.C_RST, RD.D_RST, RD.CYCLE, WR.CYCLE, RD.INSTR,
WR.INSTR. -/
def Obligations.AccessEffects : Prop :=
  ∀ (s : State) (v : Nat), let W := s.params.W
    let w := s.world.tickOver s.params Config.env
    let h := s.world.trace
    let c := Config.compressorStatus w.unitC % 2 ^ W
    let d := Config.decompressorStatus w.unitD % 2 ^ W
    let r := Config.resetWord h % 2 ^ W
    v < 2 ^ W →
    exec (.wrCCtrl v) s = .next { s with world := { w with
      unitC := Config.compressorOnCtrl w.unitC v, trace := .write .cCtrl v :: h } }
    ∧ exec (.wrDCtrl v) s = .next { s with world := { w with
      unitD := Config.decompressorOnCtrl w.unitD v, trace := .write .dCtrl v :: h } }
    ∧ exec .rdCStat s = .next { s with world := { w with trace := .read .cStat c :: h }, rdata := c }
    ∧ exec .rdDStat s = .next { s with world := { w with trace := .read .dStat d :: h }, rdata := d }
    ∧ exec .rdCRst s = .next { s with
      world := { w with unitC := Config.compressorOnReset w.unitC, trace := .read .cRst r :: h }, rdata := r }
    ∧ exec .rdDRst s = .next { s with
      world := { w with unitD := Config.decompressorOnReset w.unitD, trace := .read .dRst r :: h }, rdata := r }
    ∧ exec .rdCycle s = .next { s with world := { w with trace := .read .cycle w.cyc :: h }, rdata := w.cyc }
    ∧ exec (.wrCycle v) s = .next { s with world := { w with cyc := v, trace := .write .cycle v :: h } }
    ∧ exec .rdInstr s = .next { s with world := { w with trace := .read .instr w.ins :: h }, rdata := w.ins }
    ∧ exec (.wrInstr v) s = .next { s with world := { w with ins := v, trace := .write .instr v :: h } }

/-- R181: immediately before every register access both counters advance by their free draws modulo `2^W`. A draw is a
function of the accesses made before, so one of its own for every access (log entry 3). -/
def Obligations.CountersAdvanceBeforeEveryAccess : Prop :=
  ∀ (p : Params) (e : Env) (w : World) (x : Nat),
    let c := (w.cyc + e.cycleDraw w.trace) % 2 ^ p.W
    let i := (w.ins + e.instrDraw w.trace) % 2 ^ p.W
    (∀ r, (w.regRead p e r).2.cyc = c ∧ (w.regRead p e r).2.ins = i)
    ∧ (w.regRead p e .cycle).1 = c ∧ (w.regRead p e .instr).1 = i
    ∧ (∀ r, (w.regWrite p e r x).cyc = (if r = .cycle then x % 2 ^ p.W else c)
        ∧ (w.regWrite p e r x).ins = if r = .instr then x % 2 ^ p.W else i)

/-- R214: a host's access outside the map or against a register's direction is refused as `UNDEFINED_ACCESS` with its
direction and address, its code is 4, and no operation of the block (no step of a run) can raise it. The ten commands of the
map are `dir ++ addr` with the addresses of the parameters, whatever these are. -/
def Obligations.UndefinedAccessRefused : Prop :=
  FaultCode.undefinedAccess.code = 4
  ∧ (∀ (s : State) (cmd : Nat) (data : Option Nat) (rest : List HostReq), let p := s.params
    s.seq = .idle → s.port = .op (.access cmd data) :: rest → cmd < 2 ^ (1 + p.addrW) →
    cmd ∉ [2 ^ p.addrW + p.aCctl, 2 ^ p.addrW + p.aDctl, p.aCst, p.aDst, p.aCrst, p.aDrst,
      p.aCyc, 2 ^ p.addrW + p.aCyc, p.aIns, 2 ^ p.addrW + p.aIns] →
    step s = .refused (.undefinedAccess (decide (2 ^ p.addrW ≤ cmd)) (cmd % 2 ^ p.addrW)))
  ∧ ∀ (s : State) (write : Bool) (addr : Nat), s.seq ≠ .idle → step s ≠ .refused (.undefinedAccess write addr)

/-- The five values of the fault register and their codes (R210, R33). -/
def Obligations.FaultCodes : Prop :=
  FaultCode.none.code = 0 ∧ FaultCode.stallBudget.code = 1 ∧ FaultCode.lengthViolation.code = 2
    ∧ FaultCode.outputOverflow.code = 3 ∧ FaultCode.undefinedAccess.code = 4
    ∧ (∀ f g : FaultCode, f.code = g.code → f = g) ∧ ∀ f : FaultCode, f.code ≤ 4

/-! ## Codec -/

/-- R122: the round-trip laws of the four formats, for every legal value of the parameters: `DEC(ENC f) = f` for a fitting
record; `DEC(ENC f)` is `f` reduced modulo its widths for any record; `DEC w` always fits; `ENC(DEC w)` is `w` with its
reserved bits cleared, and is `w` where there are none, so that the pair is a bijection there. A word is a number below
`2^W`, and what an encoder gives is one. -/
def Obligations.CodecRoundTripLaws : Prop :=
  ∀ p : Params, p.legal = true →
    (∀ f, fitsCctl p f = true → decCctl p (encCctl p f) = f)
    ∧ (∀ f, fitsDctl p f = true → decDctl p (encDctl p f) = f)
    ∧ (∀ f, fitsCst p f = true → decCst p (encCst p f) = f)
    ∧ (∀ f, fitsDst p f = true → decDst p (encDst p f) = f)
    ∧ (∀ f, encCctl p f < 2 ^ p.W ∧ decCctl p (encCctl p f) = { f with inputBits := f.inputBits % 2 ^ p.ccInW })
    ∧ (∀ f, encDctl p f < 2 ^ p.W ∧ decDctl p (encDctl p f) = { f with inputBits := f.inputBits % 2 ^ p.dcInW })
    ∧ (∀ f, encCst p f < 2 ^ p.W ∧ decCst p (encCst p f) = { f with outputBits := f.outputBits % 2 ^ (p.W - 2) })
    ∧ (∀ f, encDst p f < 2 ^ p.W ∧ decDst p (encDst p f) = { f with
        outputBits := f.outputBits % 2 ^ 16, dataOutLength := f.dataOutLength % 2 ^ (p.W - 18) })
    ∧ ∀ w, w < 2 ^ p.W →
      (fitsCctl p (decCctl p w) = true ∧ fitsDctl p (decDctl p w) = true
        ∧ fitsCst p (decCst p w) = true ∧ fitsDst p (decDst p w) = true)
      ∧ encCctl p (decCctl p w) = w % 2 ^ (3 + p.ccInW)
      ∧ encDctl p (decDctl p w) = w % 2 ^ (2 + p.dcInW)
      ∧ (p.ccInW = p.W - 3 → encCctl p (decCctl p w) = w)
      ∧ (p.dcInW = p.W - 2 → encDctl p (decDctl p w) = w)
      ∧ encCst p (decCst p w) = w
      ∧ encDst p (decDst p w) = w

/-- The layout rows answer a next state from every state with legal parameters and for every record, fitting or not: the word
of the record and the record of that word (each numeric field modulo its width) go back to the caller, and nothing else
changes: no register access, no buffer byte, no flag (R110, R111). That the results stand in `rdata` and `record` is the
model's choice, log entry 11. Covers CCTL, DCTL, CST, DST. -/
def Obligations.LayoutRowsAreCodecCalls : Prop :=
  ∀ s : State, let p := s.params
    p.legal = true →
    (∀ f : Cctl, exec (.cctl f) s = .next { s with
      rdata := f.stop.toNat + 2 * f.inputValid.toNat + 4 * f.outputReady.toNat + 8 * (f.inputBits % 2 ^ p.ccInW)
      record := some (.cctl { f with inputBits := f.inputBits % 2 ^ p.ccInW }) })
    ∧ (∀ f : Dctl, exec (.dctl f) s = .next { s with
      rdata := f.inputValid.toNat + 2 * f.outputReady.toNat + 4 * (f.inputBits % 2 ^ p.dcInW)
      record := some (.dctl { f with inputBits := f.inputBits % 2 ^ p.dcInW }) })
    ∧ (∀ f : Cst, exec (.cst f) s = .next { s with
      rdata := f.inputReady.toNat + 2 * f.outputValid.toNat + 4 * (f.outputBits % 2 ^ (p.W - 2))
      record := some (.cst { f with outputBits := f.outputBits % 2 ^ (p.W - 2) }) })
    ∧ ∀ f : Dst, exec (.dst f) s = .next { s with
      rdata := f.inputReady.toNat + 2 * f.outputValid.toNat + 4 * (f.outputBits % 2 ^ 16)
        + 2 ^ 18 * (f.dataOutLength % 2 ^ (p.W - 18))
      record := some (.dst { f with
        outputBits := f.outputBits % 2 ^ 16, dataOutLength := f.dataOutLength % 2 ^ (p.W - 18) }) }

/-- R120: the bytes of `UNPACK` for each length of its domain, most significant first, from the low bytes of the field. -/
def Obligations.UnpackBytes : Prop :=
  ∀ o : Nat, unpack o 0 = [] ∧ unpack o 1 = [BitVec.ofNat 8 (o % 256)]
    ∧ unpack o 2 = [BitVec.ofNat 8 (o / 256 % 256), BitVec.ofNat 8 (o % 256)]

/-- R121: `PACK` is defined exactly for lists of 0, 1 or 2 bytes, has the values the rule gives, and `UNPACK` undoes it. -/
def Obligations.UnpackUndoesPack : Prop :=
  pack [] = some (0, 0) ∧ (∀ a, pack [a] = some (a.toNat, 1))
    ∧ (∀ a b, pack [a, b] = some (a.toNat * 256 + b.toNat, 2))
    ∧ (∀ l, (pack l).isSome = true ↔ l.length ≤ 2)
    ∧ ∀ l o n, pack l = some (o, n) → unpack o n = l

/-! ## Control words of the arbiter -/

/-- R96: each short form is one register write of the word the rule gives, from every state with legal parameters, and
answers a next state; nothing else changes (no cursor, no buffer byte, no fault). The word is that of the rule's full record:
a byte is placed whole (R86), a symbol is cut to `DC_IN_W` bits, which is 30 at the defaults. Covers C.FEED, C.ACK, D.INPUT,
D.ACK. -/
def Obligations.ShortFormsAreOneWrite : Prop :=
  ∀ s : State, let p := s.params
    p.legal = true →
    (∀ b : Byte, decCctl p ((b.toNat <<< 3) + 2) = ⟨false, true, false, b.toNat⟩)
    ∧ decCctl p 0x00000004 = ⟨false, false, true, 0⟩
    ∧ (∀ x : Nat, decDctl p (((x % 2 ^ p.dcInW) <<< 2) + 1) = ⟨true, false, x % 2 ^ p.dcInW⟩)
    ∧ decDctl p 0x00000002 = ⟨false, true, 0⟩
    ∧ let w := s.world.tickOver p Config.env
      let h := s.world.trace
      (∀ b : Byte, exec (.cFeed b) s = .next { s with world := { w with
        unitC := Config.compressorOnCtrl w.unitC ((b.toNat <<< 3) + 2)
        trace := .write .cCtrl ((b.toNat <<< 3) + 2) :: h } })
      ∧ exec .cAck s = .next { s with world := { w with
        unitC := Config.compressorOnCtrl w.unitC 0x00000004, trace := .write .cCtrl 0x00000004 :: h } }
      ∧ (∀ x : Nat, exec (.dInput x) s = .next { s with world := { w with
        unitD := Config.decompressorOnCtrl w.unitD (((x % 2 ^ p.dcInW) <<< 2) + 1)
        trace := .write .dCtrl (((x % 2 ^ p.dcInW) <<< 2) + 1) :: h } })
      ∧ exec .dAck s = .next { s with world := { w with
        unitD := Config.decompressorOnCtrl w.unitD 0x00000002, trace := .write .dCtrl 0x00000002 :: h } }

/-! ## Encoding -/

/-- Decoding the frame of a well-formed instruction gives the instruction, for every legal value of the parameters, every
instruction and every operand. -/
def Obligations.DecodeOfEncode : Prop :=
  ∀ (p : Params) (i : Instr), p.legal = true → i.wellFormed p = true → decode p (encode p i) = .ok i

/-- A frame that decodes is, with the reserved bits of a control word cleared, the frame of what it decodes to, which is well
formed, for every legal value of the parameters: no other bit of a frame is dropped, and no two frames that differ in another
bit have one meaning. -/
def Obligations.EncodeOfDecode : Prop :=
  ∀ (p : Params) (f : Frame) (i : Instr), p.legal = true → decode p f = .ok i →
    encode p i = f.cleared p ∧ i.wellFormed p = true

/-- R91: the row a decode vector selects stands for the first outcome that holds: FEED when `more` and `cIR`, else XFER
when `cOV` and `dIR`, else DRAIN when `dOV`, else IDLE. -/
def Obligations.TickTableFollowsPriority : Prop :=
  ∀ more cIR cOV dIR dOV : Bool,
    tickKind (decodeTick (tickBits more cIR cOV dIR dOV)) = some (
      if more && cIR then .feed else if cOV && dIR then .xfer else if dOV then .drain else .idle)

/-- Words written out from the spec's tables decode to the instructions they stand for, at the default parameters. How a bare
word is read is the model's choice, log entry 10, not the spec's: nothing in a word tells its layout (R80). By that choice
the 32-bit `0x20A` is read as C.FEED and `0x105` as D.INPUT, and a write given without its data word has the data word 0. -/
def Obligations.TableWordsDecode : Prop :=
  decodeTableWord 16 0x18FC = some (.wrCCtrl 0) ∧ decodeTableWord 16 0x0CED = some .rdCRst
    ∧ decodeTableWord 32 0x0000020A = some (.cFeed 0x41) ∧ decodeTableWord 32 0x00000105 = some (.dInput 0x41)
    ∧ decodeTableWord 8 0x16 = some (.tickXferB false) ∧ decodeTableWord 8 0x1F = some (.tickFeed true true true)
    ∧ decode Params.default (.layout .dst 0x0009050A) = .ok (.dst ⟨false, true, 0x4142, 2⟩)

/-! ## Tick rows -/

/-- R152: FEED, with the conditions of TICK: one write of `(b << 3) + 2` to the Compressor, `in_cur` moves by one, the tick
is counted and its status records are dead. Every other register, the whole output buffer, the Decompressor but for its own
internal steps, and every result stay. Covers TICK.FEED. -/
def Obligations.FeedRowFeeds : Prop :=
  ∀ (cOV dIR dOV : Bool) (s : State), s.params.legal = true → s.tickReady (tickBits true true cOV dIR dOV) = true →
    ∃ b, s.args.inBuf[s.inCur]? = some b ∧
      let w := s.world.tickOver s.params Config.env
      exec (.tickFeed cOV dIR dOV) s = .next { s with
        world := { w with
          unitC := Config.compressorOnCtrl w.unitC ((b.toNat <<< 3) + 2)
          trace := .write .cCtrl ((b.toNat <<< 3) + 2) :: s.world.trace }
        inCur := s.inCur + 1, ticks := s.ticks + 1, cst := none, dst := none, seq := .loopHead }

/-- R153: XFER, with the conditions of TICK: the Compressor is acknowledged by one access, then, after another interval of
the environment, the symbol of this tick's read, cut to `DC_IN_W` bits, is written to the Decompressor; no cursor moves and
no buffer byte changes; the ghost log gets the symbol. Covers TICK.XFER.a, TICK.XFER.b. -/
def Obligations.XferRowsTransfer : Prop :=
  ∀ (cIR dOV : Bool), ∀ i ∈ [Instr.tickXferA cIR dOV, .tickXferB dOV], ∀ (t : BitVec 5) (s : State) (c : Cst),
    let p := s.params
    p.legal = true → encode p i = .tick t → s.tickReady t = true → s.cst = some c →
      let w := s.world.tickOver p Config.env
      let x := { w with
        unitC := Config.compressorOnCtrl w.unitC 0x00000004, trace := .write .cCtrl 0x00000004 :: s.world.trace }
      let y := x.tickOver p Config.env
      let v := ((c.outputBits % 2 ^ p.dcInW) <<< 2) + 1
      exec i s = .next { s with
        world := { y with unitD := Config.decompressorOnCtrl y.unitD v, trace := .write .dCtrl v :: x.trace }
        mid := s.mid ++ [c.outputBits], ticks := s.ticks + 1, cst := none, dst := none, seq := .loopHead }

/-- R154 without its faults: the Decompressor is acknowledged, the `L` bytes land at `out_cur`, `out_cur` moves by `L`, and
nothing else changes. The stored bytes read as unpacked; every other entry of the output buffer reads as before. With `L = 0`
nothing is stored. Covers TICK.DRAIN.a, TICK.DRAIN.b, TICK.DRAIN.c, TICK.DRAIN.d. -/
def Obligations.DrainRowsStore : Prop :=
  ∀ (cIR dIR : Bool), ∀ i ∈ [Instr.tickDrainA cIR dIR, .tickDrainB cIR, .tickDrainC dIR, .tickDrainD],
    ∀ (t : BitVec 5) (s : State) (d : Dst), s.params.legal = true → encode s.params i = .tick t →
      s.tickReady t = true → s.dst = some d →
      d.dataOutLength ≤ 2 → s.outCur + d.dataOutLength ≤ s.args.outCap →
      let w := s.world.tickOver s.params Config.env
      ∃ m : Memory,
        exec i s = .next { s with
          world := { w with
            unitD := Config.decompressorOnCtrl w.unitD 0x00000002, trace := .write .dCtrl 0x00000002 :: s.world.trace }
          outBuf := m, outCur := s.outCur + d.dataOutLength
          ticks := s.ticks + 1, cst := none, dst := none, seq := .loopHead }
        ∧ (∀ k, k < d.dataOutLength → m.read (s.outCur + k) = (unpack d.outputBits d.dataOutLength)[k]?)
        ∧ (∀ k, k < d.dataOutLength → (m.read (s.outCur + k)).isSome = true)
        ∧ ∀ a, a < s.outCur ∨ s.outCur + d.dataOutLength ≤ a → m.read a = s.outBuf.read a

/-- R156: DRAIN of a word with `dataOutLength > 2` writes the acknowledge, then raises LENGTH_VIOLATION with the length,
whatever the room in the buffer; no byte is stored, no cursor moves, the tick is not counted (R216, R217). -/
def Obligations.DrainLengthViolation : Prop :=
  ∀ (cIR dIR : Bool), ∀ i ∈ [Instr.tickDrainA cIR dIR, .tickDrainB cIR, .tickDrainC dIR, .tickDrainD],
    ∀ (t : BitVec 5) (s : State) (d : Dst), s.params.legal = true → encode s.params i = .tick t →
      s.tickReady t = true → s.dst = some d →
      2 < d.dataOutLength →
      let w := s.world.tickOver s.params Config.env
      exec i s = .next { s with
        world := { w with
            unitD := Config.decompressorOnCtrl w.unitD 0x00000002, trace := .write .dCtrl 0x00000002 :: s.world.trace }
        fault := .lengthViolation, faultInfo := .length d.dataOutLength
        phase := .faulted, seq := .idle, cst := none, dst := none }

/-- R157: DRAIN of a word of legal length that does not fit into the buffer writes the acknowledge, then raises
OUTPUT_OVERFLOW with `out_cur` and the length before any byte is stored; the tick is not counted (R216). -/
def Obligations.DrainOutputOverflow : Prop :=
  ∀ (cIR dIR : Bool), ∀ i ∈ [Instr.tickDrainA cIR dIR, .tickDrainB cIR, .tickDrainC dIR, .tickDrainD],
    ∀ (t : BitVec 5) (s : State) (d : Dst), s.params.legal = true → encode s.params i = .tick t →
      s.tickReady t = true → s.dst = some d →
      d.dataOutLength ≤ 2 → s.args.outCap < s.outCur + d.dataOutLength →
      let w := s.world.tickOver s.params Config.env
      exec i s = .next { s with
        world := { w with
            unitD := Config.decompressorOnCtrl w.unitD 0x00000002, trace := .write .dCtrl 0x00000002 :: s.world.trace }
        fault := .outputOverflow, faultInfo := .overflow s.outCur d.dataOutLength
        phase := .faulted, seq := .idle, cst := none, dst := none }

/-- R155: an IDLE tick writes no register, makes no further access and only counts itself. Covers TICK.IDLE.a, TICK.IDLE.b,
TICK.IDLE.c, TICK.IDLE.d. -/
def Obligations.IdleRowsOnlyCount : Prop :=
  ∀ (cIR dIR : Bool), ∀ i ∈ [Instr.tickIdleA cIR dIR, .tickIdleB cIR, .tickIdleC dIR, .tickIdleD],
    ∀ (t : BitVec 5) (s : State), encode s.params i = .tick t → s.tickReady t = true →
      exec i s = .next { s with ticks := s.ticks + 1, cst := none, dst := none, seq := .loopHead }

/-- A tick row executed where the tick in progress has another decode vector, or none, is refused. That it is refused is the
model's choice, log entry 13: R150 to R155 give a row an effect under its condition only. -/
def Obligations.TickRowsRefusedElsewhere : Prop :=
  ∀ (i : Instr) (t : BitVec 5) (s : State), encode s.params i = .tick t → s.tickReady t = false →
    exec i s = .refused .tickConditionFalse

/-- The step after both status reads does the outcome that the priority order of R150 selects from the two records, and
ends the tick. -/
def Obligations.OutcomeStepFollowsPriority : Prop :=
  ∀ (s : State) (c : Cst) (d : Dst), s.seq = .decide → s.inRun = true → s.cst = some c → s.dst = some d →
    step s = .next (s.outcome Config.env c d).endTick

/-- R167: with a byte left and `inputReady`, the tick feeds, whatever the other flags are: `in_cur` moves, and no word goes
to the Decompressor, no symbol is transferred, no byte is stored. -/
def Obligations.FeedingWins : Prop :=
  ∀ (s : State) (c : Cst) (d : Dst), s.seq = .decide → s.inRun = true → s.cst = some c → s.dst = some d →
    c.inputReady = true → s.inCur < s.args.inLen →
    ∃ t, step s = .next t ∧ step s = exec (.tickFeed c.outputValid d.inputReady d.outputValid) s
      ∧ t.inCur = s.inCur + 1 ∧ t.world.unitD = Config.decompressorAdvance s.world.trace s.world.unitD
      ∧ t.mid = s.mid ∧ t.outCur = s.outCur ∧ ∀ a, t.outBuf.read a = s.outBuf.read a

/-- R150: from the head of a loop that goes on, within the budget, three steps are one TICK as the rule writes it. -/
def Obligations.ThreeStepsAreOneTick : Prop :=
  ∀ (e : Env) (s : State), s.seq = .loopHead → s.inRun = true → s.loopGoes = true → s.budgetSpent = false →
    runIn e 3 s = .next (s.tick e)

/-- R170: the register accesses of a tick: IDLE 2, FEED 3, DRAIN 3, XFER 4. The outcome is the one the two status words of
the tick select. -/
def Obligations.TickAccessCounts : Prop :=
  ∀ (e : Env) (s : State),
    let a := s.read e .cStat
    let b := a.read e .dStat
    (s.tick e).world.accesses = s.world.accesses +
      match tickKind (decodeTick (s.vectorOf (decCst s.params a.rdata) (decDst s.params b.rdata))) with
      | some .feed => 3
      | some .xfer => 4
      | some .drain => 3
      | some .idle => 2
      | none => 0

/-! ## The step -/

/-- A step runs the instruction that is fetched: a host's operation, taken from the port as it is fetched, or the row of the
tick in progress. -/
def Obligations.StepRunsFetchedInstruction : Prop :=
  (∀ (s : State) (f : Frame) (rest : List HostReq) (i : Instr),
    s.seq = .idle → s.port = .op f :: rest → decode s.params f = .ok i → step s = exec i { s with port := rest })
  ∧ ∀ (s : State) (t : BitVec 5) (i : Instr),
    s.seq = .decide → s.tickVector = some t → decode s.params (.tick t) = .ok i → step s = exec i s

/-- The order of the accesses of a run outside its ticks (R165, R183, R184), and the two reads of a tick (R150): what each
step accesses, what it keeps of the word it read, and which position comes next. -/
def Obligations.RunSequence : Prop :=
  ∀ s : State, let e := Config.env
    (s.seq = .resetC → step s = .next { s.read e .cRst with seq := .resetD })
    ∧ (s.seq = .resetD → step s = .next { s.read e .dRst with seq := .clearCycle })
    ∧ (s.seq = .clearCycle → step s = .next { s.write e .cycle 0 with seq := .clearInstr })
    ∧ (s.seq = .clearInstr → step s = .next { s.write e .instr 0 with seq := .baseCycle })
    ∧ (s.seq = .baseCycle → step s = .next { s.read e .cycle with seq := .baseInstr })
    ∧ (s.seq = .baseInstr → step s = .next { s.read e .instr with
        s0 := some ⟨s.rdata, (s.read e .instr).rdata⟩, phase := .pump, seq := .loopHead })
    ∧ (s.seq = .loopHead → s.inRun = true → s.loopGoes = true → s.budgetSpent = false →
        step s = .next { s.read e .cStat with
          cst := some (decCst s.params
            (Config.compressorStatus (Config.compressorAdvance s.world.trace s.world.unitC) % 2 ^ s.params.W))
          seq := .readD })
    ∧ (s.seq = .readD → step s = .next { s.read e .dStat with
        dst := some (decDst s.params
          (Config.decompressorStatus (Config.decompressorAdvance s.world.trace s.world.unitD) % 2 ^ s.params.W))
        seq := .decide })
    ∧ (s.seq = .closeCycle → step s = .next { s.read e .cycle with seq := .closeInstr })
    ∧ (s.seq = .closeInstr → step s = .next { s.read e .instr with
        s1 := some ⟨s.rdata, (s.read e .instr).rdata⟩, seq := .finish })

/-- A table word stored by `withFetchWord` is what the next step runs, in a state that differs from the given one in nothing
a run of it needs: the registers and units, the output buffer and the counts are those of the given state; the parameters are
the defaults, at which the table stands, or, for a tick row, those of the given state. -/
def Obligations.FetchWordIsRunNext : Prop :=
  ∀ (s : State) (nbits w : Nat) (i : Instr), decodeTableWord nbits w = some i →
    ∃ u, step (s.withFetchWord nbits w) = exec i u ∧ u.world = s.world ∧ u.outBuf = s.outBuf ∧ u.outCur = s.outCur
      ∧ u.ticks = s.ticks
      ∧ (∀ t, encode Params.default i = .tick t → u.tickReady t = true ∧ u.params = s.params)
      ∧ ((∀ t, encode Params.default i ≠ .tick t) → u.params = Params.default)

/-- The machine is the block in its own, free environment. -/
def Obligations.MachineIsItsOwnEnvironment : Prop :=
  (∀ i s, exec i s = execIn Config.env i s) ∧ ∀ s, step s = stepIn Config.env s

/-! ## Runs -/

/-- R242: when a run starts, `in_cur`, `out_cur` and `ticks` are 0, `fault` is NONE, every entry of `out_buf` is UNWRITTEN;
no register is accessed by it, the units stay, and so do counters that are words of the run's `W`. From then on the arguments
are those the host supplied with the run. -/
def Obligations.RunStartInitialises : Prop :=
  ∀ (s : State) (a : RunArgs) (rest : List HostReq),
    s.seq = .idle → s.phase = .idle → s.port = .run a :: rest → a.legal = true →
    ∃ t, step s = .next t ∧ t.inCur = 0 ∧ t.outCur = 0 ∧ t.ticks = 0 ∧ t.fault = .none
      ∧ (∀ i, t.outBuf.read i = none) ∧ t.args = a ∧ t.port = rest ∧ t.seq = .resetC
      ∧ t.world.trace = s.world.trace ∧ t.world.unitC = s.world.unitC ∧ t.world.unitD = s.world.unitD
      ∧ (s.world.cyc < 2 ^ a.params.W → t.world.cyc = s.world.cyc)
      ∧ (s.world.ins < 2 ^ a.params.W → t.world.ins = s.world.ins)

/-- A run asked for outside `IDLE` is refused, and so is one whose arguments break R7 to R10 (the refusals' names are the
model's, log entries 16 and 9); taking the results of an ended run returns `phase` to IDLE and changes nothing else (R31, R165). -/
def Obligations.HostRequests : Prop :=
  ∀ (s : State) (a : RunArgs) (rest : List HostReq), s.seq = .idle →
    (s.port = .run a :: rest → s.phase ≠ .idle → step s = .refused .runNotFromIdle)
    ∧ (s.port = .run a :: rest → s.phase = .idle →
        (a.params.legal = false ∨ a.inCap < a.inLen ∨ a.outCap < a.expectLen) →
        step s = .refused .illegalRunArgs)
    ∧ (s.port = .takeResults :: rest → s.phase = .done ∨ s.phase = .faulted →
        step s = .next { s with port := rest, phase := .idle })
    ∧ (s.port = [] → step s = .next s)

/-- The ends of the two loops (R158, R160, R165, R159): the pump ends when the input is consumed and goes to the drain phase
or, with INPUT_ONLY, to the closing snapshot; the drain phase ends when `out_cur` reaches or passes EXPECT_LEN. No register
is accessed by it. -/
def Obligations.LoopsEnd : Prop :=
  ∀ s : State, s.seq = .loopHead → s.fault = .none →
    (s.phase = .pump → s.args.inLen ≤ s.inCur → s.args.termMode = .drainToLength →
      step s = .next { s with phase := .draining })
    ∧ (s.phase = .pump → s.args.inLen ≤ s.inCur → s.args.termMode = .inputOnly →
      step s = .next { s with seq := .closeCycle })
    ∧ (s.phase = .draining → s.args.expectLen ≤ s.outCur → step s = .next { s with seq := .closeCycle })

/-- The last step of a run (R165, R185, R200): the delta of the two samples modulo `2^W`, the comparison, `phase` DONE. A
non-empty list of mismatches does not set `fault` (R202). -/
def Obligations.RunCloses : Prop :=
  ∀ (s : State) (a b : Sample), let W := s.params.W
    s.seq = .finish → s.s0 = some a → s.s1 = some b →
    step s = .next { s with
      delta := some ⟨(b.cycleCount + 2 ^ W - a.cycleCount) % 2 ^ W,
        (b.instructionCount + 2 ^ W - a.instructionCount) % 2 ^ W⟩
      mismatches := some (compare s.args.inBuf s.args.outCap s.outBuf), phase := .done, seq := .idle }

/-- R162: with a budget that is used up, the head of a loop that goes on raises STALL_BUDGET with the tick count and makes
no register access. -/
def Obligations.BudgetStopsTheLoop : Prop :=
  ∀ (s : State) (n : Nat), s.seq = .loopHead → s.inRun = true → s.loopGoes = true →
    s.args.tickBudget = some n → n ≤ s.ticks →
    step s = .next { s with
      fault := .stallBudget, faultInfo := .ticks s.ticks, phase := .faulted, seq := .idle, cst := none, dst := none }

/-- A run whose budget is not used up is not changed by it in any state or access (R162, "without changing observable
behavior when the guard is not hit"). -/
def Obligations.BudgetNotHitChangesNothing : Prop :=
  ∀ (s t : State) (n : Nat), s.seq ≠ .idle → s.args.tickBudget = none →
    (s.seq = .loopHead → s.loopGoes = true → s.ticks < n) →
    step s = .next t → step (s.withBudget (some n)) = .next (t.withBudget (some n))

/-- RUN as the rule writes it is what the steps do (R158, R160, R165): whenever the loops end within some number of ticks,
some number of steps from the host's request leads to exactly the state RUN ends in. -/
def Obligations.StepsFollowRun : Prop :=
  ∀ (e : Env) (s r : State) (a : RunArgs) (rest : List HostReq) (fuel : Nat),
    s.seq = .idle → s.phase = .idle → s.port = .run a :: rest → a.legal = true →
    State.runWhole e fuel a { s with port := rest } = some r →
    ∃ n, runIn e n s = .next r ∧ r.seq = .idle ∧ (r.phase = .done ∨ r.phase = .faulted)

/-- R171: for every byte sequence, a run through identity units with DRAIN_TO_LENGTH ends DONE after `3 * N` ticks with
`out_cur = N`, the output equal to the input, and no mismatch; whatever state the units start in, however the counters
advance, and for every legal value of the parameters at which a byte fits `DCTL.inputBits` (a narrower one cuts the symbol,
R153, and no identity unit can give the byte back). -/
def Obligations.IdentityUnitsRoundTrip : Prop :=
  ∀ (p : Params) (bytes : List Byte) (inCap outCap : Nat) (dc di word : List Access → Nat) (s : State)
    (rest : List HostReq),
    p.legal = true → 8 ≤ p.dcInW → bytes.length ≤ inCap → bytes.length ≤ outCap → s.seq = .idle → s.phase = .idle →
    s.port = .run ⟨p, bytes, inCap, outCap, bytes.length, .drainToLength, none⟩ :: rest →
    ∃ n t, runIn (unitsEnv (mockC p) (mockD p) dc di word) n s = .next t ∧ t.seq = .idle ∧ t.finished
      ∧ t.ticks = 3 * bytes.length ∧ t.outCur = bytes.length
      ∧ (∀ i, i < bytes.length → t.outBuf.read i = bytes[i]?) ∧ t.mismatches = some []

/-- R211: with TICK_BUDGET = NONE a stall is an execution that never ends, neither final nor faulted: with dead units a run
that waits in the pump is still there after any number of steps, has fed nothing and stored nothing. -/
def Obligations.DeadUnitsStallForever : Prop :=
  ∀ (dc di word : List Access → Nat) (s : State) (n : Nat),
    s.seq = .loopHead → s.phase = .pump → s.fault = .none → s.inCur < s.args.inLen → s.args.tickBudget = none →
    ∃ t, runIn (unitsEnv deadUnit deadUnit dc di word) n s = .next t ∧ t.phase = .pump ∧ t.fault = .none
      ∧ t.seq ≠ .idle ∧ t.inCur = s.inCur ∧ t.outCur = s.outCur ∧ ∀ a, t.outBuf.read a = s.outBuf.read a

/-! ## Invariants -/

/-- What the spec gives power-on (the reset values gathered in 10_state.md): `phase` is IDLE, and the samples, the delta and
the mismatches hold no value. Every other value there is the model's choice, log entries 5 to 9. -/
def Obligations.PowerOnValues : Prop :=
  State.reset.phase = .idle ∧ State.reset.s0 = none ∧ State.reset.s1 = none ∧ State.reset.delta = none
    ∧ State.reset.mismatches = none

/-- The state at power-on has the invariant. Its values beside `phase` and the results are the model's choice, log entries
5 to 9. -/
def Obligations.ResetHasInvariant : Prop := State.reset.Inv

/-- Every step keeps the invariant, from every state that has it: the buffer's canonical form and its written prefix, the
bounds of the cursors, the widths of the counters, the samples and the status records, the legality of the arguments, the
tick budget, the phases of every position, the fault register, the life of the status records and of the results. -/
def Obligations.StepKeepsInvariant : Prop := ∀ s t : State, s.Inv → step s = .next t → t.Inv

/-- From a state with the invariant no step faults, and a step is refused only for a request of the host between runs: a run
is never stopped by the model. -/
def Obligations.InvariantStatesNeverStop : Prop :=
  ∀ s : State, s.Inv → (∀ f, step s ≠ .fault f) ∧ ∀ r, step s = .refused r → s.seq = .idle ∧ s.port ≠ []

/-- R168: what holds after every tick when it held before it: the cursors are within bounds, do not decrease, `in_cur` grows
by at most 1 and `out_cur` by at most 2; entries below `out_cur` are bytes, entries from it up are UNWRITTEN; an entry once
written is never written again. -/
def Obligations.TickKeepsRunInvariants : Prop :=
  ∀ (e : Env) (s : State), s.inRun = true → s.inCur ≤ s.args.inLen → s.outCur ≤ s.args.outCap →
    (∀ i, i < s.outCur → (s.outBuf.read i).isSome = true) → (∀ i, s.outCur ≤ i → s.outBuf.read i = none) →
    let t := s.tick e
    t.args = s.args ∧ t.inCur ≤ t.args.inLen ∧ t.outCur ≤ t.args.outCap
      ∧ s.inCur ≤ t.inCur ∧ t.inCur ≤ s.inCur + 1 ∧ s.outCur ≤ t.outCur ∧ t.outCur ≤ s.outCur + 2
      ∧ (∀ i, i < t.outCur → (t.outBuf.read i).isSome = true) ∧ (∀ i, t.outCur ≤ i → t.outBuf.read i = none)
      ∧ ∀ i b, s.outBuf.read i = some b → t.outBuf.read i = some b

/-- R161: in DRAINING the input is used up, so no step feeds, whatever the Compressor reports: `in_cur` does not move and the
outcome of a tick is XFER, DRAIN or IDLE. -/
def Obligations.DrainingNeverFeeds : Prop :=
  ∀ s t : State, s.Inv → s.phase = .draining → step s = .next t →
    s.inCur = s.args.inLen ∧ t.inCur = s.inCur
      ∧ ∀ c d, s.cst = some c → s.dst = some d → tickKind (decodeTick (s.vectorOf c d)) ≠ some .feed

/-- R218: a faulted run is not resumed and its fault is not cleared: from FAULTED no step starts a run, nothing of the
arbiter's working state and results changes (the arguments with `in_buf`, the cursors, `ticks`, the fault with its
information, the buffer, the ghost log, the status records, the samples, the delta, the mismatches), and `phase` stays FAULTED
or, when the host takes the results, is IDLE. -/
def Obligations.FaultedRunDoesNotResume : Prop :=
  ∀ s t : State, s.Inv → s.phase = .faulted → step s = .next t →
    t.fault = s.fault ∧ t.faultInfo = s.faultInfo ∧ t.args = s.args ∧ t.inCur = s.inCur ∧ t.outCur = s.outCur
      ∧ t.ticks = s.ticks ∧ t.outBuf = s.outBuf ∧ t.mid = s.mid ∧ t.cst = s.cst ∧ t.dst = s.dst ∧ t.s0 = s.s0
      ∧ t.s1 = s.s1 ∧ t.delta = s.delta ∧ t.mismatches = s.mismatches ∧ t.seq = .idle
      ∧ (t.phase = .faulted ∨ ∃ rest, s.port = .takeResults :: rest ∧ t.phase = .idle)

/-- R164: no control word a step of a run hands to the Compressor has `stop`. With it: a step of a run writes a control
register in a tick's outcome only, and the word reacts to flags read in the same tick, `inputValid` to `inputReady` and
`outputReady` to `outputValid`. The accesses of the step are those the trace gets. -/
def Obligations.ControlWritesAreJustified : Prop :=
  ∀ s t : State, s.params.legal = true → s.seq ≠ .idle → step s = .next t →
    ∃ new, t.world.trace = new ++ s.world.trace
      ∧ (∀ v, .write .cCtrl v ∈ new → ∃ c, s.seq = .decide ∧ s.cst = some c ∧ let f := decCctl s.params v
        f.stop = false ∧ (f.inputValid = true → c.inputReady = true) ∧ (f.outputReady = true → c.outputValid = true))
      ∧ ∀ v, .write .dCtrl v ∈ new → ∃ c d, s.seq = .decide ∧ s.cst = some c ∧ s.dst = some d ∧
        let f := decDctl s.params v
        (f.inputValid = true → d.inputReady = true ∧ c.outputValid = true)
          ∧ (f.outputReady = true → d.outputValid = true)

/-- R163: a tick makes its two status reads, the Compressor's first, before any write, at most two writes after them, and no
other access; each write is a control word that reacts to a flag read in the same tick: `inputValid` goes to a unit that has
just shown `inputReady`, `outputReady` to a unit that has just shown `outputValid`. -/
def Obligations.TickReadsBeforeItWrites : Prop :=
  ∀ (e : Env) (s : State), let p := s.params
    p.legal = true →
    ∃ x y ws, (s.tick e).world.trace = ws ++ .read .dStat y :: .read .cStat x :: s.world.trace ∧ ws.length ≤ 2
      ∧ ∀ a ∈ ws,
        (∃ v, a = .write .cCtrl v ∧ ((decCctl p v).inputValid = true → (decCst p x).inputReady = true)
          ∧ ((decCctl p v).outputReady = true → (decCst p x).outputValid = true))
        ∨ ∃ v, a = .write .dCtrl v ∧ ((decDctl p v).inputValid = true → (decDst p y).inputReady = true)
          ∧ ((decDctl p v).outputReady = true → (decDst p y).outputValid = true)

/-! ## Performance counters -/

/-- R185: the delta is the difference of the samples modulo `2^W`, in each count; two equal samples have the delta 0, and when
fewer than `2^W` cycles and instructions passed between the samples the delta is what passed, wrapped or not. -/
def Obligations.DeltaIsModular : Prop :=
  ∀ (p : Params) (a b : Sample), a.fits p → b.fits p →
    ((pcDelta p a b).cycleCount : Int) = ((b.cycleCount : Int) - a.cycleCount) % 2 ^ p.W
    ∧ ((pcDelta p a b).instructionCount : Int) = ((b.instructionCount : Int) - a.instructionCount) % 2 ^ p.W
    ∧ pcDelta p a a = ⟨0, 0⟩
    ∧ ∀ n m, n < 2 ^ p.W → m < 2 ^ p.W →
      pcDelta p a ⟨(a.cycleCount + n) % 2 ^ p.W, (a.instructionCount + m) % 2 ^ p.W⟩ = ⟨n, m⟩

/-- The baseline of `PC_RESET; PC_SNAPSHOT` in the draws of the four accesses (R189): the cycle count is the draws before the
second and third, the instruction count those before the third and fourth; the counters' values before play no part, and
under `CountersDeterministic` two baselines are the same (R182). -/
def Obligations.BaselineSample : Prop :=
  ∀ (e : Env) (s : State), let W := s.params.W
    let h2 := .write .cycle 0 :: s.world.trace
    let h3 := .write .instr 0 :: h2
    let c := (e.cycleDraw h2 + e.cycleDraw h3) % 2 ^ W
    let h4 := .read .cycle c :: h3
    ((s.pcReset e).pcSnapshot e).1 = ⟨c, (e.instrDraw h3 + e.instrDraw h4) % 2 ^ W⟩
    ∧ ∀ s' : State, CountersDeterministic e → s'.params = s.params →
      ((s'.pcReset e).pcSnapshot e).1 = ((s.pcReset e).pcSnapshot e).1

/-- A tick reads the status registers and writes the control registers only (R187), so it never writes a counter: both only
advance, by the draws of the accesses it makes (R188). -/
def Obligations.TickOnlyAdvancesCounters : Prop :=
  ∀ (e : Env) (s : State), let t := s.tick e
    let h := s.world.trace
    ∃ new, t.world.trace = new ++ h
      ∧ (∀ a ∈ new, ∃ v, a = .read .cStat v ∨ a = .read .dStat v ∨ a = .write .cCtrl v ∨ a = .write .dCtrl v)
      ∧ t.world.cyc = (s.world.cyc + drawSum e.cycleDraw h new) % 2 ^ s.params.W
      ∧ t.world.ins = (s.world.ins + drawSum e.instrDraw h new) % 2 ^ s.params.W

/-- What BRACKET measures (R186) around a region that, begun after the baseline, makes the accesses `new` and writes no
counter: the cycle delta is the draws before the second baseline read, every access of the region and the first closing read;
the instruction delta is the draws before every access of the region and both closing reads; both modulo `2^W`. -/
def Obligations.BracketMeasuresItsRegion : Prop :=
  ∀ (e : Env) (region : State → State) (s : State) (new : List Access),
    let a := (s.pcReset e).read e .cycle
    let b := a.read e .instr
    let c := region b
    let W := s.params.W
    c.params = s.params → c.world.trace = new ++ b.world.trace →
    c.world.cyc = (b.world.cyc + drawSum e.cycleDraw b.world.trace new) % 2 ^ W →
    c.world.ins = (b.world.ins + drawSum e.instrDraw b.world.trace new) % 2 ^ W →
    (s.bracket e region).1
      = ⟨(e.cycleDraw a.world.trace + drawSum e.cycleDraw b.world.trace new + e.cycleDraw c.world.trace) % 2 ^ W,
         (drawSum e.instrDraw b.world.trace new + e.instrDraw c.world.trace
            + e.instrDraw (c.read e .cycle).world.trace) % 2 ^ W⟩

/-- The counters steer nothing (R188): a step of the loops of a run from a state with other counter values leads to the same
state with other counter values. -/
def Obligations.CountersDoNotSteer : Prop :=
  ∀ (s t : State) (c i : Nat), s.seq = .loopHead ∨ s.seq = .readD ∨ s.seq = .decide → step s = .next t →
    ∃ c' i', step (s.withCounters c i) = .next (t.withCounters c' i')

/-! ## Verifier -/

/-- R201: the list is empty exactly when the output equals the input at every index below `N`; every record's index is below
`N`, the indices rise strictly, and a record with index `k` is present exactly when the output differs there, with the input's
byte and the output's entry in it (R200). -/
def Obligations.CompareLaws : Prop :=
  ∀ (inBuf : List Byte) (outCap : Nat) (m : Memory),
    (compare inBuf outCap m = [] ↔ ∀ i, i < inBuf.length → outputAt outCap m i = inBuf[i]?)
    ∧ ((compare inBuf outCap m).Pairwise fun x y => x.index < y.index)
    ∧ (∀ r ∈ compare inBuf outCap m, r.index < inBuf.length ∧ inBuf[r.index]? = some r.expected
        ∧ r.actual = outputAt outCap m r.index)
    ∧ ∀ k, k < inBuf.length →
      ((∃ r ∈ compare inBuf outCap m, r.index = k) ↔ outputAt outCap m k ≠ inBuf[k]?)

/-! ## Environment -/

/-- During a run the host's requests are neither read nor changed (R66, R166), and the arguments, the parameters among them,
stay as the run was started with (R41): a step of a run with other requests waiting is the same step. -/
def Obligations.PortIsNotReadDuringRuns : Prop :=
  ∀ (s t : State) (p : List HostReq), s.seq ≠ .idle → step s = .next t →
    t.port = s.port ∧ t.args = s.args ∧ step (s.withPort p) = .next (t.withPort p)

/-- Under `UnitLengthLegal` no tick raises LENGTH_VIOLATION (92, R156). -/
def Obligations.LegalLengthsNeverViolate : Prop :=
  ∀ (e : Env) (s : State), UnitLengthLegal s.params e → s.inRun = true → (s.tick e).fault ≠ .lengthViolation

/-- The identity units satisfy the premises 95 section 3 says they do, `UnitsHoldHandshake` (acceptance, keeping and giving
up), `UnitsCleanAfterReset` (holding no data among it) and `UnitLengthLegal`, for every legal value of the parameters, and
`Clock(3, 1)` satisfies `CountersDeterministic`. How the premises' words are read is log entries 24 and 28: which data a
unit holds is the environment's own account, a word accepted or giving up data is one with `inputValid` or `outputReady`
alone, and no reset read of the unit itself comes between the status shown and that word. -/
def Obligations.FixturesMeetThePremises : Prop :=
  ∀ p : Params, p.legal = true → let e := clockEnv (mockC p) (mockD p) 3 1
    UnitsHoldHandshake p e ∧ UnitsCleanAfterReset p e ∧ UnitLengthLegal p e ∧ CountersDeterministic e
end

