-- ==== Sys2Proof/Laws/Codec.lean ====
section
/-! SUPPORT. The small lemmas of the codec, for every legal value of the parameters: each word and each record as
arithmetic, a field that was placed is extracted again. -/

namespace Sys2Proof

@[simp] theorem trunc_eq (n v : Nat) : trunc n v = v % 2 ^ n := rfl

theorem trunc_lt (n v : Nat) : trunc n v < 2 ^ n := Nat.mod_lt _ (Nat.two_pow_pos n)

theorem trunc_of_lt {n v : Nat} (h : v < 2 ^ n) : trunc n v = v := Nat.mod_eq_of_lt h

theorem trunc_trunc (n v : Nat) : trunc n (trunc n v) = trunc n v := trunc_of_lt (trunc_lt n v)

theorem fieldOf_eq (v hi lo : Nat) : fieldOf v hi lo = v / 2 ^ lo % 2 ^ (hi + 1 - lo) := by
  simp [fieldOf, Nat.shiftRight_eq_div_pow]

theorem placeField_eq (n lo f : Nat) : placeField n lo f = f % 2 ^ n * 2 ^ lo := by
  simp [placeField, Nat.shiftLeft_eq]

theorem fieldOf_lt (v hi lo : Nat) : fieldOf v hi lo < 2 ^ (hi + 1 - lo) := Nat.mod_lt _ (Nat.two_pow_pos _)

theorem flagOf_eq (v i : Nat) : flagOf v i = decide (v / 2 ^ i % 2 = 1) := by
  simp only [flagOf, fieldOf_eq, show i + 1 - i = 1 by omega, Nat.pow_one]
  rfl

theorem two_pow_split {a b : Nat} (h : a ≤ b) : 2 ^ b = 2 ^ a * 2 ^ (b - a) := by
  rw [← Nat.pow_add, Nat.add_sub_cancel' h]

theorem boolToNat_mod (b : Bool) : decide (b.toNat % 2 = 1) = b := by cases b <;> rfl

/-! ### The parameters -/

theorem Params.legal_bounds {p : Params} (h : p.legal = true) :
    20 ≤ p.W ∧ 8 ≤ p.ccInW ∧ p.ccInW ≤ p.W - 3 ∧ 1 ≤ p.dcInW ∧ p.dcInW ≤ p.W - 2 := by
  simp only [Params.legal, decide_eq_true_eq] at h
  exact ⟨h.1, h.2.1, h.2.2.1, h.2.2.2.1, h.2.2.2.2.1⟩

/-- The eight addresses are pairwise different numbers of `ADDR_W` bits (R9). -/
theorem Params.legal_addresses {p : Params} (h : p.legal = true) :
    p.addresses.Nodup ∧ ∀ a ∈ p.addresses, a < 2 ^ p.addrW := by
  simp only [Params.legal, decide_eq_true_eq] at h
  exact ⟨h.2.2.2.2.2.1, h.2.2.2.2.2.2⟩

theorem Params.default_legal : Params.default.legal = true := by decide

/-! ### Fitting records -/

@[simp] theorem fitsCctl_iff (p : Params) (f : Cctl) : fitsCctl p f = true ↔ f.inputBits < 2 ^ p.ccInW := by
  simp [fitsCctl]

@[simp] theorem fitsDctl_iff (p : Params) (f : Dctl) : fitsDctl p f = true ↔ f.inputBits < 2 ^ p.dcInW := by
  simp [fitsDctl]

@[simp] theorem fitsCst_iff (p : Params) (f : Cst) : fitsCst p f = true ↔ f.outputBits < 2 ^ p.csOutW := by
  simp [fitsCst]

@[simp] theorem fitsDst_iff (p : Params) (f : Dst) :
    fitsDst p f = true ↔ f.outputBits < 2 ^ 16 ∧ f.dataOutLength < 2 ^ p.dsLenW := by
  rw [fitsDst, decide_eq_true_eq]

@[simp] theorem Instr.wellFormed_dInput_iff (p : Params) (s : Nat) :
    (Instr.dInput s).wellFormed p = true ↔ s < 2 ^ p.dcInW := decide_eq_true_iff

/-! ### Encoders -/

theorem encCctl_lt (p : Params) (f : Cctl) : encCctl p f < 2 ^ p.W := trunc_lt _ _
theorem encDctl_lt (p : Params) (f : Dctl) : encDctl p f < 2 ^ p.W := trunc_lt _ _
theorem encCst_lt (p : Params) (f : Cst) : encCst p f < 2 ^ p.W := trunc_lt _ _
theorem encDst_lt (p : Params) (f : Dst) : encDst p f < 2 ^ p.W := trunc_lt _ _

theorem encCctl_eq {p : Params} (h : p.legal = true) (f : Cctl) : encCctl p f
    = f.stop.toNat + 2 * f.inputValid.toNat + 4 * f.outputReady.toNat + 8 * (f.inputBits % 2 ^ p.ccInW) := by
  obtain ⟨h1, h2, h3, -⟩ := Params.legal_bounds h
  have h4 := f.stop.toNat_lt
  have h5 := f.inputValid.toNat_lt
  have h6 := f.outputReady.toNat_lt
  have hx := Nat.mod_lt f.inputBits (Nat.two_pow_pos p.ccInW)
  have hp : 2 ^ (3 + p.ccInW) ≤ 2 ^ p.W := Nat.pow_le_pow_right (by omega) (by omega)
  rw [Nat.pow_add] at hp
  simp only [encCctl, placeField_eq, Nat.shiftLeft_eq]
  rw [trunc_of_lt (by omega)]
  omega

theorem encDctl_eq {p : Params} (h : p.legal = true) (f : Dctl) : encDctl p f
    = f.inputValid.toNat + 2 * f.outputReady.toNat + 4 * (f.inputBits % 2 ^ p.dcInW) := by
  obtain ⟨h1, h2, h3, h4, h5⟩ := Params.legal_bounds h
  have h6 := f.inputValid.toNat_lt
  have h7 := f.outputReady.toNat_lt
  have hx := Nat.mod_lt f.inputBits (Nat.two_pow_pos p.dcInW)
  have hp : 2 ^ (2 + p.dcInW) ≤ 2 ^ p.W := Nat.pow_le_pow_right (by omega) (by omega)
  rw [Nat.pow_add] at hp
  simp only [encDctl, placeField_eq, Nat.shiftLeft_eq]
  rw [trunc_of_lt (by omega)]
  omega

theorem encCst_eq {p : Params} (h : p.legal = true) (f : Cst) : encCst p f
    = f.inputReady.toNat + 2 * f.outputValid.toNat + 4 * (f.outputBits % 2 ^ (p.W - 2)) := by
  obtain ⟨h1, -⟩ := Params.legal_bounds h
  have h2 := f.inputReady.toNat_lt
  have h3 := f.outputValid.toNat_lt
  have hx := Nat.mod_lt f.outputBits (Nat.two_pow_pos (p.W - 2))
  have hp := two_pow_split (show 2 ≤ p.W by omega)
  simp only [encCst, placeField_eq, Nat.shiftLeft_eq, Params.csOutW]
  rw [trunc_of_lt (by omega)]
  omega

theorem encDst_eq {p : Params} (h : p.legal = true) (f : Dst) : encDst p f
    = f.inputReady.toNat + 2 * f.outputValid.toNat + 4 * (f.outputBits % 2 ^ 16)
      + 2 ^ 18 * (f.dataOutLength % 2 ^ (p.W - 18)) := by
  obtain ⟨h1, -⟩ := Params.legal_bounds h
  have h2 := f.inputReady.toNat_lt
  have h3 := f.outputValid.toNat_lt
  have hx := Nat.mod_lt f.dataOutLength (Nat.two_pow_pos (p.W - 18))
  have hp := two_pow_split (show 18 ≤ p.W by omega)
  simp only [encDst, placeField_eq, Nat.shiftLeft_eq, Params.dsLenW]
  rw [trunc_of_lt (by omega)]
  omega

/-! ### Decoders -/

theorem decCctl_eq (p : Params) (w : Nat) : decCctl p w =
    { stop := decide (w % 2 = 1), inputValid := decide (w / 2 % 2 = 1)
      outputReady := decide (w / 4 % 2 = 1), inputBits := w / 8 % 2 ^ p.ccInW } := by
  simp [decCctl, flagOf_eq, fieldOf_eq]

theorem decDctl_eq (p : Params) (w : Nat) : decDctl p w =
    { inputValid := decide (w % 2 = 1), outputReady := decide (w / 2 % 2 = 1)
      inputBits := w / 4 % 2 ^ p.dcInW } := by
  simp [decDctl, flagOf_eq, fieldOf_eq]

theorem decCst_eq {p : Params} (h : p.legal = true) (w : Nat) : decCst p w =
    { inputReady := decide (w % 2 = 1), outputValid := decide (w / 2 % 2 = 1)
      outputBits := w / 4 % 2 ^ (p.W - 2) } := by
  have := (Params.legal_bounds h).1
  simp [decCst, flagOf_eq, fieldOf_eq, show p.W - 1 + 1 - 2 = p.W - 2 by omega]

theorem decDst_eq {p : Params} (h : p.legal = true) (w : Nat) : decDst p w =
    { inputReady := decide (w % 2 = 1), outputValid := decide (w / 2 % 2 = 1)
      outputBits := w / 4 % 2 ^ 16, dataOutLength := w / 2 ^ 18 % 2 ^ (p.W - 18) } := by
  have := (Params.legal_bounds h).1
  simp [decDst, flagOf_eq, fieldOf_eq, show p.W - 1 + 1 - 18 = p.W - 18 by omega]

/-- A status word's record fits (R122). -/
theorem decCst_fits {p : Params} (h : p.legal = true) (w : Nat) : fitsCst p (decCst p w) = true := by
  rw [fitsCst_iff, decCst_eq h]
  exact Nat.mod_lt _ (Nat.two_pow_pos _)

theorem decDst_fits {p : Params} (h : p.legal = true) (w : Nat) : fitsDst p (decDst p w) = true := by
  rw [fitsDst_iff, decDst_eq h]
  exact ⟨Nat.mod_lt _ (Nat.two_pow_pos _), Nat.mod_lt _ (Nat.two_pow_pos _)⟩

end Sys2Proof
end

