-- ==== Sys2Proof/Laws/Memory.lean ====
section
/-! SUPPORT. The laws of the output buffer: every operation keeps the canonical form; a read after a write. -/

namespace Sys2Proof.Machine

theorem Memory.wf_nil : Memory.wf [] := List.Pairwise.nil

theorem Memory.mem_write {m : Memory} {i : Nat} {b : Byte} {y : Host.Cell} (h : y ∈ m.write i b) :
    y = (i, b) ∨ y ∈ m := by
  induction m with
  | nil => simpa [Memory.write] using h
  | cons x m ih =>
    obtain ⟨k, v⟩ := x
    simp only [Memory.write] at h
    split at h
    · simpa using h
    · split at h
      · rcases List.mem_cons.1 h with h | h
        · exact .inl h
        · exact .inr (List.mem_cons_of_mem _ h)
      · rcases List.mem_cons.1 h with h | h
        · exact .inr (by simp [h])
        · exact (ih h).imp_right (List.mem_cons_of_mem _)

theorem Memory.write_wf {m : Memory} (h : m.wf) (i : Nat) (b : Byte) : (m.write i b).wf := by
  induction m with
  | nil => simp [Memory.write, Memory.wf]
  | cons x m ih =>
    obtain ⟨k, v⟩ := x
    obtain ⟨hk, hm⟩ := List.pairwise_cons.1 h
    simp only [Memory.write]
    split
    · next hlt => exact List.pairwise_cons.2 ⟨fun y hy => by
        rcases List.mem_cons.1 hy with rfl | hy
        · exact hlt
        · exact Nat.lt_trans hlt (hk y hy), h⟩
    · split
      · next heq => exact List.pairwise_cons.2 ⟨fun y hy => by subst heq; exact hk y hy, hm⟩
      · next hge hne => exact List.pairwise_cons.2 ⟨fun y hy => by
          rcases Memory.mem_write hy with rfl | hy
          · show k < i
            omega
          · exact hk y hy, ih hm⟩

theorem Memory.writeBytes_wf {m : Memory} (h : m.wf) (i : Nat) (bs : List Byte) : (m.writeBytes i bs).wf := by
  induction bs generalizing m i with
  | nil => exact h
  | cons b bs ih => exact ih (Memory.write_wf h i b) (i + 1)

@[simp] theorem Memory.read_nil (i : Nat) : Memory.read [] i = none := rfl

theorem Memory.read_write (m : Memory) (i j : Nat) (b : Byte) :
    (m.write i b).read j = if j = i then some b else m.read j := by
  induction m with
  | nil => simp [Memory.write, Memory.read]
  | cons x m ih =>
    obtain ⟨k, v⟩ := x
    simp only [Memory.write]
    split
    · simp [Memory.read]
    · split
      · next heq =>
        subst heq
        simp only [Memory.read]
        split <;> rfl
      · next hne =>
        simp only [Memory.read, ih]
        by_cases hjk : j = k
        · subst hjk
          simp [Ne.symm hne]
        · simp [hjk]

theorem Memory.read_writeBytes (m : Memory) (i j : Nat) (bs : List Byte) :
    (m.writeBytes i bs).read j = if i ≤ j ∧ j < i + bs.length then bs[j - i]? else m.read j := by
  induction bs generalizing m i with
  | nil =>
    simp only [Memory.writeBytes, List.length_nil, Nat.add_zero]
    split
    · omega
    · rfl
  | cons b bs ih =>
    simp only [Memory.writeBytes, ih, Memory.read_write, List.length_cons]
    by_cases hj : j = i
    · subst hj
      simp
    · by_cases h : i + 1 ≤ j ∧ j < i + 1 + bs.length
      · have e : j - i = (j - (i + 1)) + 1 := by omega
        have h' : i ≤ j ∧ j < i + (bs.length + 1) := by omega
        simp [h, h', e]
      · have h' : ¬(i ≤ j ∧ j < i + (bs.length + 1)) := by omega
        rw [if_neg h, if_neg h', if_neg hj]

theorem unpack_length {o n : Nat} (h : n ≤ dsOutBytes) : (unpack o n).length = n := by
  have : n = 0 ∨ n = 1 ∨ n = 2 := by simp only [dsOutBytes] at h; omega
  rcases this with rfl | rfl | rfl <;> rfl

end Sys2Proof.Machine
end

