-- ==== Sys2Proof/Laws/State.lean ====
section
/-! SUPPORT. One lemma per field per update of the state, true by `rfl`: later proofs never unfold a record update. -/

namespace Sys2Proof.Machine

variable (s : State)

/-! ### `State.read` -/

@[simp] theorem State.read_world (e : Env) (r : ReadReg) : (s.read e r).world = (s.world.regRead s.params e r).2 := rfl
@[simp] theorem State.read_args (e : Env) (r : ReadReg) : (s.read e r).args = s.args := rfl
@[simp] theorem State.read_params (e : Env) (r : ReadReg) : (s.read e r).params = s.params := rfl
@[simp] theorem State.read_inCur (e : Env) (r : ReadReg) : (s.read e r).inCur = s.inCur := rfl
@[simp] theorem State.read_outCur (e : Env) (r : ReadReg) : (s.read e r).outCur = s.outCur := rfl
@[simp] theorem State.read_ticks (e : Env) (r : ReadReg) : (s.read e r).ticks = s.ticks := rfl
@[simp] theorem State.read_phase (e : Env) (r : ReadReg) : (s.read e r).phase = s.phase := rfl
@[simp] theorem State.read_fault (e : Env) (r : ReadReg) : (s.read e r).fault = s.fault := rfl
@[simp] theorem State.read_faultInfo (e : Env) (r : ReadReg) : (s.read e r).faultInfo = s.faultInfo := rfl
@[simp] theorem State.read_outBuf (e : Env) (r : ReadReg) : (s.read e r).outBuf = s.outBuf := rfl
@[simp] theorem State.read_mid (e : Env) (r : ReadReg) : (s.read e r).mid = s.mid := rfl
@[simp] theorem State.read_cst (e : Env) (r : ReadReg) : (s.read e r).cst = s.cst := rfl
@[simp] theorem State.read_dst (e : Env) (r : ReadReg) : (s.read e r).dst = s.dst := rfl
@[simp] theorem State.read_s0 (e : Env) (r : ReadReg) : (s.read e r).s0 = s.s0 := rfl
@[simp] theorem State.read_s1 (e : Env) (r : ReadReg) : (s.read e r).s1 = s.s1 := rfl
@[simp] theorem State.read_delta (e : Env) (r : ReadReg) : (s.read e r).delta = s.delta := rfl
@[simp] theorem State.read_mismatches (e : Env) (r : ReadReg) : (s.read e r).mismatches = s.mismatches := rfl
@[simp] theorem State.read_seq (e : Env) (r : ReadReg) : (s.read e r).seq = s.seq := rfl
@[simp] theorem State.read_port (e : Env) (r : ReadReg) : (s.read e r).port = s.port := rfl
@[simp] theorem State.read_rdata (e : Env) (r : ReadReg) : (s.read e r).rdata = (s.world.regRead s.params e r).1 := rfl
@[simp] theorem State.read_record (e : Env) (r : ReadReg) : (s.read e r).record = s.record := rfl

/-! ### `State.write` -/

@[simp] theorem State.write_world (e : Env) (r : WriteReg) (x : Nat) : (s.write e r x).world = s.world.regWrite s.params e r x := rfl
@[simp] theorem State.write_args (e : Env) (r : WriteReg) (x : Nat) : (s.write e r x).args = s.args := rfl
@[simp] theorem State.write_params (e : Env) (r : WriteReg) (x : Nat) : (s.write e r x).params = s.params := rfl
@[simp] theorem State.write_inCur (e : Env) (r : WriteReg) (x : Nat) : (s.write e r x).inCur = s.inCur := rfl
@[simp] theorem State.write_outCur (e : Env) (r : WriteReg) (x : Nat) : (s.write e r x).outCur = s.outCur := rfl
@[simp] theorem State.write_ticks (e : Env) (r : WriteReg) (x : Nat) : (s.write e r x).ticks = s.ticks := rfl
@[simp] theorem State.write_phase (e : Env) (r : WriteReg) (x : Nat) : (s.write e r x).phase = s.phase := rfl
@[simp] theorem State.write_fault (e : Env) (r : WriteReg) (x : Nat) : (s.write e r x).fault = s.fault := rfl
@[simp] theorem State.write_faultInfo (e : Env) (r : WriteReg) (x : Nat) : (s.write e r x).faultInfo = s.faultInfo := rfl
@[simp] theorem State.write_outBuf (e : Env) (r : WriteReg) (x : Nat) : (s.write e r x).outBuf = s.outBuf := rfl
@[simp] theorem State.write_mid (e : Env) (r : WriteReg) (x : Nat) : (s.write e r x).mid = s.mid := rfl
@[simp] theorem State.write_cst (e : Env) (r : WriteReg) (x : Nat) : (s.write e r x).cst = s.cst := rfl
@[simp] theorem State.write_dst (e : Env) (r : WriteReg) (x : Nat) : (s.write e r x).dst = s.dst := rfl
@[simp] theorem State.write_s0 (e : Env) (r : WriteReg) (x : Nat) : (s.write e r x).s0 = s.s0 := rfl
@[simp] theorem State.write_s1 (e : Env) (r : WriteReg) (x : Nat) : (s.write e r x).s1 = s.s1 := rfl
@[simp] theorem State.write_delta (e : Env) (r : WriteReg) (x : Nat) : (s.write e r x).delta = s.delta := rfl
@[simp] theorem State.write_mismatches (e : Env) (r : WriteReg) (x : Nat) : (s.write e r x).mismatches = s.mismatches := rfl
@[simp] theorem State.write_seq (e : Env) (r : WriteReg) (x : Nat) : (s.write e r x).seq = s.seq := rfl
@[simp] theorem State.write_port (e : Env) (r : WriteReg) (x : Nat) : (s.write e r x).port = s.port := rfl
@[simp] theorem State.write_rdata (e : Env) (r : WriteReg) (x : Nat) : (s.write e r x).rdata = s.rdata := rfl
@[simp] theorem State.write_record (e : Env) (r : WriteReg) (x : Nat) : (s.write e r x).record = s.record := rfl

/-! ### `State.cWriteInputs` -/

@[simp] theorem State.cWriteInputs_world (e : Env) (f : Cctl) : (s.cWriteInputs e f).world = s.world.cWriteInputs s.params e f := rfl
@[simp] theorem State.cWriteInputs_args (e : Env) (f : Cctl) : (s.cWriteInputs e f).args = s.args := rfl
@[simp] theorem State.cWriteInputs_params (e : Env) (f : Cctl) : (s.cWriteInputs e f).params = s.params := rfl
@[simp] theorem State.cWriteInputs_inCur (e : Env) (f : Cctl) : (s.cWriteInputs e f).inCur = s.inCur := rfl
@[simp] theorem State.cWriteInputs_outCur (e : Env) (f : Cctl) : (s.cWriteInputs e f).outCur = s.outCur := rfl
@[simp] theorem State.cWriteInputs_ticks (e : Env) (f : Cctl) : (s.cWriteInputs e f).ticks = s.ticks := rfl
@[simp] theorem State.cWriteInputs_phase (e : Env) (f : Cctl) : (s.cWriteInputs e f).phase = s.phase := rfl
@[simp] theorem State.cWriteInputs_fault (e : Env) (f : Cctl) : (s.cWriteInputs e f).fault = s.fault := rfl
@[simp] theorem State.cWriteInputs_faultInfo (e : Env) (f : Cctl) : (s.cWriteInputs e f).faultInfo = s.faultInfo := rfl
@[simp] theorem State.cWriteInputs_outBuf (e : Env) (f : Cctl) : (s.cWriteInputs e f).outBuf = s.outBuf := rfl
@[simp] theorem State.cWriteInputs_mid (e : Env) (f : Cctl) : (s.cWriteInputs e f).mid = s.mid := rfl
@[simp] theorem State.cWriteInputs_cst (e : Env) (f : Cctl) : (s.cWriteInputs e f).cst = s.cst := rfl
@[simp] theorem State.cWriteInputs_dst (e : Env) (f : Cctl) : (s.cWriteInputs e f).dst = s.dst := rfl
@[simp] theorem State.cWriteInputs_s0 (e : Env) (f : Cctl) : (s.cWriteInputs e f).s0 = s.s0 := rfl
@[simp] theorem State.cWriteInputs_s1 (e : Env) (f : Cctl) : (s.cWriteInputs e f).s1 = s.s1 := rfl
@[simp] theorem State.cWriteInputs_delta (e : Env) (f : Cctl) : (s.cWriteInputs e f).delta = s.delta := rfl
@[simp] theorem State.cWriteInputs_mismatches (e : Env) (f : Cctl) : (s.cWriteInputs e f).mismatches = s.mismatches := rfl
@[simp] theorem State.cWriteInputs_seq (e : Env) (f : Cctl) : (s.cWriteInputs e f).seq = s.seq := rfl
@[simp] theorem State.cWriteInputs_port (e : Env) (f : Cctl) : (s.cWriteInputs e f).port = s.port := rfl
@[simp] theorem State.cWriteInputs_rdata (e : Env) (f : Cctl) : (s.cWriteInputs e f).rdata = s.rdata := rfl
@[simp] theorem State.cWriteInputs_record (e : Env) (f : Cctl) : (s.cWriteInputs e f).record = s.record := rfl

/-! ### `State.dWriteInputs` -/

@[simp] theorem State.dWriteInputs_world (e : Env) (f : Dctl) : (s.dWriteInputs e f).world = s.world.dWriteInputs s.params e f := rfl
@[simp] theorem State.dWriteInputs_args (e : Env) (f : Dctl) : (s.dWriteInputs e f).args = s.args := rfl
@[simp] theorem State.dWriteInputs_params (e : Env) (f : Dctl) : (s.dWriteInputs e f).params = s.params := rfl
@[simp] theorem State.dWriteInputs_inCur (e : Env) (f : Dctl) : (s.dWriteInputs e f).inCur = s.inCur := rfl
@[simp] theorem State.dWriteInputs_outCur (e : Env) (f : Dctl) : (s.dWriteInputs e f).outCur = s.outCur := rfl
@[simp] theorem State.dWriteInputs_ticks (e : Env) (f : Dctl) : (s.dWriteInputs e f).ticks = s.ticks := rfl
@[simp] theorem State.dWriteInputs_phase (e : Env) (f : Dctl) : (s.dWriteInputs e f).phase = s.phase := rfl
@[simp] theorem State.dWriteInputs_fault (e : Env) (f : Dctl) : (s.dWriteInputs e f).fault = s.fault := rfl
@[simp] theorem State.dWriteInputs_faultInfo (e : Env) (f : Dctl) : (s.dWriteInputs e f).faultInfo = s.faultInfo := rfl
@[simp] theorem State.dWriteInputs_outBuf (e : Env) (f : Dctl) : (s.dWriteInputs e f).outBuf = s.outBuf := rfl
@[simp] theorem State.dWriteInputs_mid (e : Env) (f : Dctl) : (s.dWriteInputs e f).mid = s.mid := rfl
@[simp] theorem State.dWriteInputs_cst (e : Env) (f : Dctl) : (s.dWriteInputs e f).cst = s.cst := rfl
@[simp] theorem State.dWriteInputs_dst (e : Env) (f : Dctl) : (s.dWriteInputs e f).dst = s.dst := rfl
@[simp] theorem State.dWriteInputs_s0 (e : Env) (f : Dctl) : (s.dWriteInputs e f).s0 = s.s0 := rfl
@[simp] theorem State.dWriteInputs_s1 (e : Env) (f : Dctl) : (s.dWriteInputs e f).s1 = s.s1 := rfl
@[simp] theorem State.dWriteInputs_delta (e : Env) (f : Dctl) : (s.dWriteInputs e f).delta = s.delta := rfl
@[simp] theorem State.dWriteInputs_mismatches (e : Env) (f : Dctl) : (s.dWriteInputs e f).mismatches = s.mismatches := rfl
@[simp] theorem State.dWriteInputs_seq (e : Env) (f : Dctl) : (s.dWriteInputs e f).seq = s.seq := rfl
@[simp] theorem State.dWriteInputs_port (e : Env) (f : Dctl) : (s.dWriteInputs e f).port = s.port := rfl
@[simp] theorem State.dWriteInputs_rdata (e : Env) (f : Dctl) : (s.dWriteInputs e f).rdata = s.rdata := rfl
@[simp] theorem State.dWriteInputs_record (e : Env) (f : Dctl) : (s.dWriteInputs e f).record = s.record := rfl

/-! ### `State.raise` -/

@[simp] theorem State.raise_world (f : FaultCode) (i : FaultInfo) : (s.raise f i).world = s.world := rfl
@[simp] theorem State.raise_args (f : FaultCode) (i : FaultInfo) : (s.raise f i).args = s.args := rfl
@[simp] theorem State.raise_params (f : FaultCode) (i : FaultInfo) : (s.raise f i).params = s.params := rfl
@[simp] theorem State.raise_inCur (f : FaultCode) (i : FaultInfo) : (s.raise f i).inCur = s.inCur := rfl
@[simp] theorem State.raise_outCur (f : FaultCode) (i : FaultInfo) : (s.raise f i).outCur = s.outCur := rfl
@[simp] theorem State.raise_ticks (f : FaultCode) (i : FaultInfo) : (s.raise f i).ticks = s.ticks := rfl
@[simp] theorem State.raise_phase (f : FaultCode) (i : FaultInfo) : (s.raise f i).phase = .faulted := rfl
@[simp] theorem State.raise_fault (f : FaultCode) (i : FaultInfo) : (s.raise f i).fault = f := rfl
@[simp] theorem State.raise_faultInfo (f : FaultCode) (i : FaultInfo) : (s.raise f i).faultInfo = i := rfl
@[simp] theorem State.raise_outBuf (f : FaultCode) (i : FaultInfo) : (s.raise f i).outBuf = s.outBuf := rfl
@[simp] theorem State.raise_mid (f : FaultCode) (i : FaultInfo) : (s.raise f i).mid = s.mid := rfl
@[simp] theorem State.raise_cst (f : FaultCode) (i : FaultInfo) : (s.raise f i).cst = none := rfl
@[simp] theorem State.raise_dst (f : FaultCode) (i : FaultInfo) : (s.raise f i).dst = none := rfl
@[simp] theorem State.raise_s0 (f : FaultCode) (i : FaultInfo) : (s.raise f i).s0 = s.s0 := rfl
@[simp] theorem State.raise_s1 (f : FaultCode) (i : FaultInfo) : (s.raise f i).s1 = s.s1 := rfl
@[simp] theorem State.raise_delta (f : FaultCode) (i : FaultInfo) : (s.raise f i).delta = s.delta := rfl
@[simp] theorem State.raise_mismatches (f : FaultCode) (i : FaultInfo) : (s.raise f i).mismatches = s.mismatches := rfl
@[simp] theorem State.raise_seq (f : FaultCode) (i : FaultInfo) : (s.raise f i).seq = .idle := rfl
@[simp] theorem State.raise_port (f : FaultCode) (i : FaultInfo) : (s.raise f i).port = s.port := rfl
@[simp] theorem State.raise_rdata (f : FaultCode) (i : FaultInfo) : (s.raise f i).rdata = s.rdata := rfl
@[simp] theorem State.raise_record (f : FaultCode) (i : FaultInfo) : (s.raise f i).record = s.record := rfl

/-! ### `State.codecReturn` -/

@[simp] theorem State.codecReturn_world (w : Nat) (c : CodecRecord) : (s.codecReturn w c).world = s.world := rfl
@[simp] theorem State.codecReturn_args (w : Nat) (c : CodecRecord) : (s.codecReturn w c).args = s.args := rfl
@[simp] theorem State.codecReturn_params (w : Nat) (c : CodecRecord) : (s.codecReturn w c).params = s.params := rfl
@[simp] theorem State.codecReturn_inCur (w : Nat) (c : CodecRecord) : (s.codecReturn w c).inCur = s.inCur := rfl
@[simp] theorem State.codecReturn_outCur (w : Nat) (c : CodecRecord) : (s.codecReturn w c).outCur = s.outCur := rfl
@[simp] theorem State.codecReturn_ticks (w : Nat) (c : CodecRecord) : (s.codecReturn w c).ticks = s.ticks := rfl
@[simp] theorem State.codecReturn_phase (w : Nat) (c : CodecRecord) : (s.codecReturn w c).phase = s.phase := rfl
@[simp] theorem State.codecReturn_fault (w : Nat) (c : CodecRecord) : (s.codecReturn w c).fault = s.fault := rfl
@[simp] theorem State.codecReturn_faultInfo (w : Nat) (c : CodecRecord) : (s.codecReturn w c).faultInfo = s.faultInfo := rfl
@[simp] theorem State.codecReturn_outBuf (w : Nat) (c : CodecRecord) : (s.codecReturn w c).outBuf = s.outBuf := rfl
@[simp] theorem State.codecReturn_mid (w : Nat) (c : CodecRecord) : (s.codecReturn w c).mid = s.mid := rfl
@[simp] theorem State.codecReturn_cst (w : Nat) (c : CodecRecord) : (s.codecReturn w c).cst = s.cst := rfl
@[simp] theorem State.codecReturn_dst (w : Nat) (c : CodecRecord) : (s.codecReturn w c).dst = s.dst := rfl
@[simp] theorem State.codecReturn_s0 (w : Nat) (c : CodecRecord) : (s.codecReturn w c).s0 = s.s0 := rfl
@[simp] theorem State.codecReturn_s1 (w : Nat) (c : CodecRecord) : (s.codecReturn w c).s1 = s.s1 := rfl
@[simp] theorem State.codecReturn_delta (w : Nat) (c : CodecRecord) : (s.codecReturn w c).delta = s.delta := rfl
@[simp] theorem State.codecReturn_mismatches (w : Nat) (c : CodecRecord) : (s.codecReturn w c).mismatches = s.mismatches := rfl
@[simp] theorem State.codecReturn_seq (w : Nat) (c : CodecRecord) : (s.codecReturn w c).seq = s.seq := rfl
@[simp] theorem State.codecReturn_port (w : Nat) (c : CodecRecord) : (s.codecReturn w c).port = s.port := rfl
@[simp] theorem State.codecReturn_rdata (w : Nat) (c : CodecRecord) : (s.codecReturn w c).rdata = w := rfl
@[simp] theorem State.codecReturn_record (w : Nat) (c : CodecRecord) : (s.codecReturn w c).record = some c := rfl

/-! ### `State.startRun` -/

@[simp] theorem State.startRun_world (a : RunArgs) : (s.startRun a).world = s.world.resize a.params := rfl
@[simp] theorem State.startRun_args (a : RunArgs) : (s.startRun a).args = a := rfl
@[simp] theorem State.startRun_params (a : RunArgs) : (s.startRun a).params = a.params := rfl
@[simp] theorem State.startRun_inCur (a : RunArgs) : (s.startRun a).inCur = 0 := rfl
@[simp] theorem State.startRun_outCur (a : RunArgs) : (s.startRun a).outCur = 0 := rfl
@[simp] theorem State.startRun_ticks (a : RunArgs) : (s.startRun a).ticks = 0 := rfl
@[simp] theorem State.startRun_phase (a : RunArgs) : (s.startRun a).phase = s.phase := rfl
@[simp] theorem State.startRun_fault (a : RunArgs) : (s.startRun a).fault = .none := rfl
@[simp] theorem State.startRun_faultInfo (a : RunArgs) : (s.startRun a).faultInfo = .none := rfl
@[simp] theorem State.startRun_outBuf (a : RunArgs) : (s.startRun a).outBuf = [] := rfl
@[simp] theorem State.startRun_mid (a : RunArgs) : (s.startRun a).mid = [] := rfl
@[simp] theorem State.startRun_cst (a : RunArgs) : (s.startRun a).cst = none := rfl
@[simp] theorem State.startRun_dst (a : RunArgs) : (s.startRun a).dst = none := rfl
@[simp] theorem State.startRun_s0 (a : RunArgs) : (s.startRun a).s0 = none := rfl
@[simp] theorem State.startRun_s1 (a : RunArgs) : (s.startRun a).s1 = none := rfl
@[simp] theorem State.startRun_delta (a : RunArgs) : (s.startRun a).delta = none := rfl
@[simp] theorem State.startRun_mismatches (a : RunArgs) : (s.startRun a).mismatches = none := rfl
@[simp] theorem State.startRun_seq (a : RunArgs) : (s.startRun a).seq = .resetC := rfl
@[simp] theorem State.startRun_port (a : RunArgs) : (s.startRun a).port = s.port := rfl
@[simp] theorem State.startRun_rdata (a : RunArgs) : (s.startRun a).rdata = trunc a.params.W s.rdata := rfl
@[simp] theorem State.startRun_record (a : RunArgs) : (s.startRun a).record = s.record := rfl

/-! ### `State.xfer` -/

@[simp] theorem State.xfer_world (e : Env) (c : Cst) : (s.xfer e c).world = (s.world.cWriteInputs s.params e ackRecordC).dWriteInputs s.params e (inputRecord c.outputBits) := rfl
@[simp] theorem State.xfer_args (e : Env) (c : Cst) : (s.xfer e c).args = s.args := rfl
@[simp] theorem State.xfer_params (e : Env) (c : Cst) : (s.xfer e c).params = s.params := rfl
@[simp] theorem State.xfer_inCur (e : Env) (c : Cst) : (s.xfer e c).inCur = s.inCur := rfl
@[simp] theorem State.xfer_outCur (e : Env) (c : Cst) : (s.xfer e c).outCur = s.outCur := rfl
@[simp] theorem State.xfer_ticks (e : Env) (c : Cst) : (s.xfer e c).ticks = s.ticks := rfl
@[simp] theorem State.xfer_phase (e : Env) (c : Cst) : (s.xfer e c).phase = s.phase := rfl
@[simp] theorem State.xfer_fault (e : Env) (c : Cst) : (s.xfer e c).fault = s.fault := rfl
@[simp] theorem State.xfer_faultInfo (e : Env) (c : Cst) : (s.xfer e c).faultInfo = s.faultInfo := rfl
@[simp] theorem State.xfer_outBuf (e : Env) (c : Cst) : (s.xfer e c).outBuf = s.outBuf := rfl
@[simp] theorem State.xfer_mid (e : Env) (c : Cst) : (s.xfer e c).mid = s.mid ++ [c.outputBits] := rfl
@[simp] theorem State.xfer_cst (e : Env) (c : Cst) : (s.xfer e c).cst = s.cst := rfl
@[simp] theorem State.xfer_dst (e : Env) (c : Cst) : (s.xfer e c).dst = s.dst := rfl
@[simp] theorem State.xfer_s0 (e : Env) (c : Cst) : (s.xfer e c).s0 = s.s0 := rfl
@[simp] theorem State.xfer_s1 (e : Env) (c : Cst) : (s.xfer e c).s1 = s.s1 := rfl
@[simp] theorem State.xfer_delta (e : Env) (c : Cst) : (s.xfer e c).delta = s.delta := rfl
@[simp] theorem State.xfer_mismatches (e : Env) (c : Cst) : (s.xfer e c).mismatches = s.mismatches := rfl
@[simp] theorem State.xfer_seq (e : Env) (c : Cst) : (s.xfer e c).seq = s.seq := rfl
@[simp] theorem State.xfer_port (e : Env) (c : Cst) : (s.xfer e c).port = s.port := rfl
@[simp] theorem State.xfer_rdata (e : Env) (c : Cst) : (s.xfer e c).rdata = s.rdata := rfl
@[simp] theorem State.xfer_record (e : Env) (c : Cst) : (s.xfer e c).record = s.record := rfl

/-! ### `State.closeRun` -/

@[simp] theorem State.closeRun_world (a b : Sample) : (s.closeRun a b).world = s.world := rfl
@[simp] theorem State.closeRun_args (a b : Sample) : (s.closeRun a b).args = s.args := rfl
@[simp] theorem State.closeRun_params (a b : Sample) : (s.closeRun a b).params = s.params := rfl
@[simp] theorem State.closeRun_inCur (a b : Sample) : (s.closeRun a b).inCur = s.inCur := rfl
@[simp] theorem State.closeRun_outCur (a b : Sample) : (s.closeRun a b).outCur = s.outCur := rfl
@[simp] theorem State.closeRun_ticks (a b : Sample) : (s.closeRun a b).ticks = s.ticks := rfl
@[simp] theorem State.closeRun_phase (a b : Sample) : (s.closeRun a b).phase = .done := rfl
@[simp] theorem State.closeRun_fault (a b : Sample) : (s.closeRun a b).fault = s.fault := rfl
@[simp] theorem State.closeRun_faultInfo (a b : Sample) : (s.closeRun a b).faultInfo = s.faultInfo := rfl
@[simp] theorem State.closeRun_outBuf (a b : Sample) : (s.closeRun a b).outBuf = s.outBuf := rfl
@[simp] theorem State.closeRun_mid (a b : Sample) : (s.closeRun a b).mid = s.mid := rfl
@[simp] theorem State.closeRun_cst (a b : Sample) : (s.closeRun a b).cst = s.cst := rfl
@[simp] theorem State.closeRun_dst (a b : Sample) : (s.closeRun a b).dst = s.dst := rfl
@[simp] theorem State.closeRun_s0 (a b : Sample) : (s.closeRun a b).s0 = s.s0 := rfl
@[simp] theorem State.closeRun_s1 (a b : Sample) : (s.closeRun a b).s1 = some b := rfl
@[simp] theorem State.closeRun_delta (a b : Sample) : (s.closeRun a b).delta = some (pcDelta s.params a b) := rfl
@[simp] theorem State.closeRun_mismatches (a b : Sample) : (s.closeRun a b).mismatches = some (compare s.args.inBuf s.args.outCap s.outBuf) := rfl
@[simp] theorem State.closeRun_seq (a b : Sample) : (s.closeRun a b).seq = .idle := rfl
@[simp] theorem State.closeRun_port (a b : Sample) : (s.closeRun a b).port = s.port := rfl
@[simp] theorem State.closeRun_rdata (a b : Sample) : (s.closeRun a b).rdata = s.rdata := rfl
@[simp] theorem State.closeRun_record (a b : Sample) : (s.closeRun a b).record = s.record := rfl

/-! ### `State.withBudget` -/

@[simp] theorem State.withBudget_world (b : Option Nat) : (s.withBudget b).world = s.world := rfl
@[simp] theorem State.withBudget_args (b : Option Nat) : (s.withBudget b).args = { s.args with tickBudget := b } := rfl
@[simp] theorem State.withBudget_params (b : Option Nat) : (s.withBudget b).params = s.params := rfl
@[simp] theorem State.withBudget_inCur (b : Option Nat) : (s.withBudget b).inCur = s.inCur := rfl
@[simp] theorem State.withBudget_outCur (b : Option Nat) : (s.withBudget b).outCur = s.outCur := rfl
@[simp] theorem State.withBudget_ticks (b : Option Nat) : (s.withBudget b).ticks = s.ticks := rfl
@[simp] theorem State.withBudget_phase (b : Option Nat) : (s.withBudget b).phase = s.phase := rfl
@[simp] theorem State.withBudget_fault (b : Option Nat) : (s.withBudget b).fault = s.fault := rfl
@[simp] theorem State.withBudget_faultInfo (b : Option Nat) : (s.withBudget b).faultInfo = s.faultInfo := rfl
@[simp] theorem State.withBudget_outBuf (b : Option Nat) : (s.withBudget b).outBuf = s.outBuf := rfl
@[simp] theorem State.withBudget_mid (b : Option Nat) : (s.withBudget b).mid = s.mid := rfl
@[simp] theorem State.withBudget_cst (b : Option Nat) : (s.withBudget b).cst = s.cst := rfl
@[simp] theorem State.withBudget_dst (b : Option Nat) : (s.withBudget b).dst = s.dst := rfl
@[simp] theorem State.withBudget_s0 (b : Option Nat) : (s.withBudget b).s0 = s.s0 := rfl
@[simp] theorem State.withBudget_s1 (b : Option Nat) : (s.withBudget b).s1 = s.s1 := rfl
@[simp] theorem State.withBudget_delta (b : Option Nat) : (s.withBudget b).delta = s.delta := rfl
@[simp] theorem State.withBudget_mismatches (b : Option Nat) : (s.withBudget b).mismatches = s.mismatches := rfl
@[simp] theorem State.withBudget_seq (b : Option Nat) : (s.withBudget b).seq = s.seq := rfl
@[simp] theorem State.withBudget_port (b : Option Nat) : (s.withBudget b).port = s.port := rfl
@[simp] theorem State.withBudget_rdata (b : Option Nat) : (s.withBudget b).rdata = s.rdata := rfl
@[simp] theorem State.withBudget_record (b : Option Nat) : (s.withBudget b).record = s.record := rfl

/-! ### `State.withCounters` -/

@[simp] theorem State.withCounters_world (c i : Nat) : (s.withCounters c i).world = { s.world with cyc := c, ins := i } := rfl
@[simp] theorem State.withCounters_args (c i : Nat) : (s.withCounters c i).args = s.args := rfl
@[simp] theorem State.withCounters_params (c i : Nat) : (s.withCounters c i).params = s.params := rfl
@[simp] theorem State.withCounters_inCur (c i : Nat) : (s.withCounters c i).inCur = s.inCur := rfl
@[simp] theorem State.withCounters_outCur (c i : Nat) : (s.withCounters c i).outCur = s.outCur := rfl
@[simp] theorem State.withCounters_ticks (c i : Nat) : (s.withCounters c i).ticks = s.ticks := rfl
@[simp] theorem State.withCounters_phase (c i : Nat) : (s.withCounters c i).phase = s.phase := rfl
@[simp] theorem State.withCounters_fault (c i : Nat) : (s.withCounters c i).fault = s.fault := rfl
@[simp] theorem State.withCounters_faultInfo (c i : Nat) : (s.withCounters c i).faultInfo = s.faultInfo := rfl
@[simp] theorem State.withCounters_outBuf (c i : Nat) : (s.withCounters c i).outBuf = s.outBuf := rfl
@[simp] theorem State.withCounters_mid (c i : Nat) : (s.withCounters c i).mid = s.mid := rfl
@[simp] theorem State.withCounters_cst (c i : Nat) : (s.withCounters c i).cst = s.cst := rfl
@[simp] theorem State.withCounters_dst (c i : Nat) : (s.withCounters c i).dst = s.dst := rfl
@[simp] theorem State.withCounters_s0 (c i : Nat) : (s.withCounters c i).s0 = s.s0 := rfl
@[simp] theorem State.withCounters_s1 (c i : Nat) : (s.withCounters c i).s1 = s.s1 := rfl
@[simp] theorem State.withCounters_delta (c i : Nat) : (s.withCounters c i).delta = s.delta := rfl
@[simp] theorem State.withCounters_mismatches (c i : Nat) : (s.withCounters c i).mismatches = s.mismatches := rfl
@[simp] theorem State.withCounters_seq (c i : Nat) : (s.withCounters c i).seq = s.seq := rfl
@[simp] theorem State.withCounters_port (c i : Nat) : (s.withCounters c i).port = s.port := rfl
@[simp] theorem State.withCounters_rdata (c i : Nat) : (s.withCounters c i).rdata = s.rdata := rfl
@[simp] theorem State.withCounters_record (c i : Nat) : (s.withCounters c i).record = s.record := rfl

/-! ### `State.withPort` -/

@[simp] theorem State.withPort_world (p : List HostReq) : (s.withPort p).world = s.world := rfl
@[simp] theorem State.withPort_args (p : List HostReq) : (s.withPort p).args = s.args := rfl
@[simp] theorem State.withPort_params (p : List HostReq) : (s.withPort p).params = s.params := rfl
@[simp] theorem State.withPort_inCur (p : List HostReq) : (s.withPort p).inCur = s.inCur := rfl
@[simp] theorem State.withPort_outCur (p : List HostReq) : (s.withPort p).outCur = s.outCur := rfl
@[simp] theorem State.withPort_ticks (p : List HostReq) : (s.withPort p).ticks = s.ticks := rfl
@[simp] theorem State.withPort_phase (p : List HostReq) : (s.withPort p).phase = s.phase := rfl
@[simp] theorem State.withPort_fault (p : List HostReq) : (s.withPort p).fault = s.fault := rfl
@[simp] theorem State.withPort_faultInfo (p : List HostReq) : (s.withPort p).faultInfo = s.faultInfo := rfl
@[simp] theorem State.withPort_outBuf (p : List HostReq) : (s.withPort p).outBuf = s.outBuf := rfl
@[simp] theorem State.withPort_mid (p : List HostReq) : (s.withPort p).mid = s.mid := rfl
@[simp] theorem State.withPort_cst (p : List HostReq) : (s.withPort p).cst = s.cst := rfl
@[simp] theorem State.withPort_dst (p : List HostReq) : (s.withPort p).dst = s.dst := rfl
@[simp] theorem State.withPort_s0 (p : List HostReq) : (s.withPort p).s0 = s.s0 := rfl
@[simp] theorem State.withPort_s1 (p : List HostReq) : (s.withPort p).s1 = s.s1 := rfl
@[simp] theorem State.withPort_delta (p : List HostReq) : (s.withPort p).delta = s.delta := rfl
@[simp] theorem State.withPort_mismatches (p : List HostReq) : (s.withPort p).mismatches = s.mismatches := rfl
@[simp] theorem State.withPort_seq (p : List HostReq) : (s.withPort p).seq = s.seq := rfl
@[simp] theorem State.withPort_port (p : List HostReq) : (s.withPort p).port = p := rfl
@[simp] theorem State.withPort_rdata (p : List HostReq) : (s.withPort p).rdata = s.rdata := rfl
@[simp] theorem State.withPort_record (p : List HostReq) : (s.withPort p).record = s.record := rfl

end Sys2Proof.Machine
end

