-- ==== Sys2Proof/Laws/Ops.lean ====
section
/-! SUPPORT. One lemma for each shared operation that says once what it can do; later proofs cite it. -/

namespace Sys2Proof.Machine

/-! ### The environment between two accesses -/

@[simp] theorem World.tickOver_cyc (p : Params) (e : Env) (w : World) :
    (w.tickOver p e).cyc = (w.cyc + e.cycleDraw w.trace) % 2 ^ p.W := rfl
@[simp] theorem World.tickOver_ins (p : Params) (e : Env) (w : World) :
    (w.tickOver p e).ins = (w.ins + e.instrDraw w.trace) % 2 ^ p.W := rfl
@[simp] theorem World.tickOver_unitC (p : Params) (e : Env) (w : World) :
    (w.tickOver p e).unitC = e.compressor.advance w.trace w.unitC := rfl
@[simp] theorem World.tickOver_unitD (p : Params) (e : Env) (w : World) :
    (w.tickOver p e).unitD = e.decompressor.advance w.trace w.unitD := rfl
@[simp] theorem World.tickOver_trace (p : Params) (e : Env) (w : World) : (w.tickOver p e).trace = w.trace := rfl

@[simp] theorem World.log_cyc (a : Access) (w : World) : (w.log a).cyc = w.cyc := rfl
@[simp] theorem World.log_ins (a : Access) (w : World) : (w.log a).ins = w.ins := rfl
@[simp] theorem World.log_unitC (a : Access) (w : World) : (w.log a).unitC = w.unitC := rfl
@[simp] theorem World.log_unitD (a : Access) (w : World) : (w.log a).unitD = w.unitD := rfl
@[simp] theorem World.log_trace (a : Access) (w : World) : (w.log a).trace = a :: w.trace := rfl

@[simp] theorem World.resize_cyc (p : Params) (w : World) : (w.resize p).cyc = w.cyc % 2 ^ p.W := rfl
@[simp] theorem World.resize_ins (p : Params) (w : World) : (w.resize p).ins = w.ins % 2 ^ p.W := rfl
@[simp] theorem World.resize_unitC (p : Params) (w : World) : (w.resize p).unitC = w.unitC := rfl
@[simp] theorem World.resize_unitD (p : Params) (w : World) : (w.resize p).unitD = w.unitD := rfl
@[simp] theorem World.resize_trace (p : Params) (w : World) : (w.resize p).trace = w.trace := rfl

/-! ### The access primitive (R56) -/

@[simp] theorem World.regRead_word (p : Params) (e : Env) (r : ReadReg) (w : World) :
    (w.regRead p e r).1 = (w.tickOver p e).readWord p e r := rfl

/-- A read never writes a counter: both only advance (R56, R187). -/
@[simp] theorem World.regRead_cyc (p : Params) (e : Env) (r : ReadReg) (w : World) :
    (w.regRead p e r).2.cyc = (w.tickOver p e).cyc := by cases r <;> rfl
@[simp] theorem World.regRead_ins (p : Params) (e : Env) (r : ReadReg) (w : World) :
    (w.regRead p e r).2.ins = (w.tickOver p e).ins := by cases r <;> rfl

/-- Every access is one more access in the trace (R52, R97). -/
@[simp] theorem World.regRead_trace (p : Params) (e : Env) (r : ReadReg) (w : World) :
    (w.regRead p e r).2.trace = .read r (w.regRead p e r).1 :: w.trace := by cases r <;> rfl
@[simp] theorem World.regWrite_trace (p : Params) (e : Env) (r : WriteReg) (x : Nat) (w : World) :
    (w.regWrite p e r x).trace = .write r (x % 2 ^ p.W) :: w.trace := by cases r <;> rfl

/-- A read of anything but a reset register changes neither unit (R56). -/
theorem World.regRead_units (p : Params) (e : Env) {r : ReadReg} (w : World) (hc : r ≠ .cRst) (hd : r ≠ .dRst) :
    (w.regRead p e r).2.unitC = (w.tickOver p e).unitC ∧ (w.regRead p e r).2.unitD = (w.tickOver p e).unitD := by
  cases r <;> first | exact ⟨rfl, rfl⟩ | contradiction

/-- A counter is written by a write of its own register only (R56, R183). -/
theorem World.regWrite_cyc (p : Params) (e : Env) (r : WriteReg) (x : Nat) (w : World) :
    (w.regWrite p e r x).cyc = if r = .cycle then x % 2 ^ p.W else (w.tickOver p e).cyc := by cases r <;> rfl
theorem World.regWrite_ins (p : Params) (e : Env) (r : WriteReg) (x : Nat) (w : World) :
    (w.regWrite p e r x).ins = if r = .instr then x % 2 ^ p.W else (w.tickOver p e).ins := by cases r <;> rfl

/-- A unit is handed a word by a write of its own control register only (R56). -/
theorem World.regWrite_unitC (p : Params) (e : Env) (r : WriteReg) (x : Nat) (w : World) :
    (w.regWrite p e r x).unitC
      = if r = .cCtrl then e.compressor.onCtrl (w.tickOver p e).unitC (x % 2 ^ p.W) else (w.tickOver p e).unitC := by
  cases r <;> rfl
theorem World.regWrite_unitD (p : Params) (e : Env) (r : WriteReg) (x : Nat) (w : World) :
    (w.regWrite p e r x).unitD
      = if r = .dCtrl then e.decompressor.onCtrl (w.tickOver p e).unitD (x % 2 ^ p.W) else (w.tickOver p e).unitD := by
  cases r <;> rfl

@[simp] theorem World.regRead_cycle_word (p : Params) (e : Env) (w : World) :
    (w.regRead p e .cycle).1 = (w.tickOver p e).cyc := rfl
@[simp] theorem World.regRead_instr_word (p : Params) (e : Env) (w : World) :
    (w.regRead p e .instr).1 = (w.tickOver p e).ins := rfl

/-- A word read is a word (R52). -/
theorem World.regRead_lt (p : Params) (e : Env) (r : ReadReg) (w : World) : (w.regRead p e r).1 < 2 ^ p.W := by
  cases r <;> exact trunc_lt _ _

/-- After an access the counters are words (R180). -/
theorem World.regRead_counters_lt (p : Params) (e : Env) (r : ReadReg) (w : World) :
    (w.regRead p e r).2.cyc < 2 ^ p.W ∧ (w.regRead p e r).2.ins < 2 ^ p.W := by
  rw [World.regRead_cyc, World.regRead_ins]
  exact ⟨trunc_lt _ _, trunc_lt _ _⟩
theorem World.regWrite_counters_lt (p : Params) (e : Env) (r : WriteReg) (x : Nat) (w : World) :
    (w.regWrite p e r x).cyc < 2 ^ p.W ∧ (w.regWrite p e r x).ins < 2 ^ p.W := by
  cases r <;> exact ⟨trunc_lt _ _, trunc_lt _ _⟩

/-- A control word is one write of its encoding, which is a word already (R131, R132). -/
theorem World.cWriteInputs_trace (p : Params) (e : Env) (f : Cctl) (w : World) :
    (w.cWriteInputs p e f).trace = .write .cCtrl (encCctl p f) :: w.trace := by
  rw [World.cWriteInputs, World.regWrite_trace, Nat.mod_eq_of_lt (encCctl_lt p f)]
theorem World.dWriteInputs_trace (p : Params) (e : Env) (f : Dctl) (w : World) :
    (w.dWriteInputs p e f).trace = .write .dCtrl (encDctl p f) :: w.trace := by
  rw [World.dWriteInputs, World.regWrite_trace, Nat.mod_eq_of_lt (encDctl_lt p f)]

/-- What a control word does to the Compressor's world: the environment moves, the word arrives, the trace grows. -/
theorem World.cWriteInputs_eq (p : Params) (e : Env) (f : Cctl) (w : World) :
    w.cWriteInputs p e f = { w.tickOver p e with
      unitC := e.compressor.onCtrl (w.tickOver p e).unitC (encCctl p f)
      trace := .write .cCtrl (encCctl p f) :: w.trace } := by
  simp only [World.cWriteInputs, World.regWrite, trunc_of_lt (encCctl_lt p f)]
  rfl
theorem World.dWriteInputs_eq (p : Params) (e : Env) (f : Dctl) (w : World) :
    w.dWriteInputs p e f = { w.tickOver p e with
      unitD := e.decompressor.onCtrl (w.tickOver p e).unitD (encDctl p f)
      trace := .write .dCtrl (encDctl p f) :: w.trace } := by
  simp only [World.dWriteInputs, World.regWrite, trunc_of_lt (encDctl_lt p f)]
  rfl

/-! ### The arguments of a run -/

theorem RunArgs.legal_iff (a : RunArgs) :
    a.legal = true ↔ a.params.legal = true ∧ a.inLen ≤ a.inCap ∧ a.expectLen ≤ a.outCap := by simp [RunArgs.legal]

/-! ### The flags of a tick -/

theorem State.inRun_iff (s : State) :
    s.inRun = true ↔ (s.phase = .pump ∨ s.phase = .draining) ∧ s.fault = .none := by simp [State.inRun]

theorem State.more_iff (s : State) : s.more = true ↔ s.inCur < s.args.inLen := by simp [State.more]

theorem State.tickReady_iff (s : State) (t : BitVec 5) :
    s.tickReady t = true ↔
      ((s.phase = .pump ∨ s.phase = .draining) ∧ s.fault = .none) ∧
        ∃ c d, s.cst = some c ∧ s.dst = some d ∧ s.vectorOf c d = t := by
  have h : s.tickVector = some t ↔ ∃ c d, s.cst = some c ∧ s.dst = some d ∧ s.vectorOf c d = t := by
    simp only [State.tickVector]
    split <;> simp_all
  simp only [State.tickReady, Bool.and_eq_true, State.inRun_iff, decide_eq_true_eq, h]

/-- The vector says each of its five flags. -/
theorem tickBits_inj {a b c d e a' b' c' d' e' : Bool} (h : tickBits a b c d e = tickBits a' b' c' d' e') :
    a = a' ∧ b = b' ∧ c = c' ∧ d = d' ∧ e = e' := by
  revert h
  revert a b c d e a' b' c' d' e'
  decide

/-! ### The pieces of a tick -/

theorem State.nextByte_isSome {s : State} (h : s.more = true) : ∃ b, s.nextByte = some b := by
  have h : s.inCur < s.args.inBuf.length := (State.more_iff s).1 h
  exact ⟨s.args.inBuf[s.inCur], by simp [State.nextByte, h]⟩

theorem State.feed_of_byte (e : Env) {s : State} {b : Byte} (h : s.nextByte = some b) :
    s.feed e = { s.cWriteInputs e (feedRecord b) with inCur := s.inCur + 1 } := by
  simp [State.feed, h]

/-- What `DRAIN` can do: one of its two faults, or the store (R154, R156, R157). -/
theorem State.drain_cases (e : Env) (d : Dst) (s : State) :
    (dsOutBytes < d.dataOutLength ∧
      s.drain e d = (s.dWriteInputs e ackRecordD).raise .lengthViolation (.length d.dataOutLength)) ∨
    (d.dataOutLength ≤ dsOutBytes ∧ s.args.outCap < s.outCur + d.dataOutLength ∧
      s.drain e d
        = (s.dWriteInputs e ackRecordD).raise .outputOverflow (.overflow s.outCur d.dataOutLength)) ∨
    (d.dataOutLength ≤ dsOutBytes ∧ s.outCur + d.dataOutLength ≤ s.args.outCap ∧
      s.drain e d = { s.dWriteInputs e ackRecordD with
        outBuf := s.outBuf.writeBytes s.outCur (unpack d.outputBits d.dataOutLength)
        outCur := s.outCur + d.dataOutLength }) := by
  by_cases h : dsOutBytes < d.dataOutLength
  · exact .inl ⟨h, by simp [State.drain, h]⟩
  · by_cases h' : s.args.outCap < s.outCur + d.dataOutLength
    · exact .inr (.inl ⟨by omega, h', by simp [State.drain, h, h']⟩)
    · exact .inr (.inr ⟨by omega, by omega, by simp [State.drain, h, h']⟩)

theorem State.endTick_of_none {s : State} (h : s.fault = .none) :
    s.endTick = { s with ticks := s.ticks + 1, cst := none, dst := none, seq := .loopHead } := by
  simp [State.endTick, h]

theorem State.endTick_of_fault {s : State} (h : s.fault ≠ .none) : s.endTick = s := by
  simp [State.endTick, h]

theorem State.endTick_raise (s : State) {f : FaultCode} (i : FaultInfo) (h : f ≠ .none) :
    (s.raise f i).endTick = s.raise f i := State.endTick_of_fault (by simpa using h)

/-- A tick row answers a next state exactly when the tick in progress has its vector, and then it is the row's outcome
with the tick ended. -/
theorem State.tickRow_next {s : State} {t : BitVec 5} {o : Cst → Dst → State → State} {u : State} :
    s.tickRow t o = .next u ↔
      ∃ c d, s.cst = some c ∧ s.dst = some d ∧ s.tickReady t = true ∧ u = (o c d s).endTick := by
  simp only [State.tickRow]
  cases hc : s.cst with
  | none => simp
  | some c =>
    cases hd : s.dst with
    | none => simp
    | some d =>
      by_cases h : s.tickReady t = true
      · simp [h, eq_comm]
      · simp [h]

theorem State.tickRow_of {s : State} {t : BitVec 5} {o : Cst → Dst → State → State} {c : Cst} {d : Dst}
    (hc : s.cst = some c) (hd : s.dst = some d) (h : s.tickReady t = true) :
    s.tickRow t o = .next (o c d s).endTick := by simp [State.tickRow, hc, hd, h]

/-- A tick row that is not ready is refused under its own name. -/
theorem State.tickRow_refused {s : State} {t : BitVec 5} {o : Cst → Dst → State → State}
    (h : s.tickReady t = false) : s.tickRow t o = .refused .tickConditionFalse := by
  simp only [State.tickRow]
  split
  · simp [h]
  · rfl

theorem State.budgetSpent_iff (s : State) :
    s.budgetSpent = true ↔ ∃ n, s.args.tickBudget = some n ∧ n ≤ s.ticks := by
  simp only [State.budgetSpent]
  cases s.args.tickBudget <;> simp

/-! ### One step -/

/-- What a step can do: a move of the sequencer, or one instruction and what the sequencer does after it. -/
theorem stepWith_next {ex : Instr → State → Result} {s t : State} :
    stepWith ex s = .next t ↔
      s.nextOp = .silent t ∨ ∃ i u, s.nextOp = .instr i ∧ ex i s.issued = .next u ∧ t = s.afterOp u := by
  simp only [stepWith]
  cases h : s.nextOp with
  | instr i =>
    cases hx : ex i s.issued <;> simp [hx, eq_comm]
  | silent u => simp
  | fault f => simp
  | refuse r => simp

theorem stepWith_silent {ex : Instr → State → Result} {s t : State} (h : s.nextOp = .silent t) :
    stepWith ex s = .next t := by simp [stepWith, h]

theorem stepWith_instr {ex : Instr → State → Result} {s u : State} {i : Instr} (h : s.nextOp = .instr i)
    (hx : ex i s.issued = .next u) : stepWith ex s = .next (s.afterOp u) := by simp [stepWith, h, hx]

/-- `exec` is `execIn` in the machine's own environment. -/
theorem execIn_env (i : Instr) (s : State) : execIn Config.env i s = exec i s := by cases i <;> rfl

@[simp] theorem runIn_zero (e : Env) (s : State) : runIn e 0 s = .next s := rfl

theorem runIn_succ (e : Env) (n : Nat) {s t : State} (h : stepIn e s = .next t) :
    runIn e (n + 1) s = runIn e n t := by simp [runIn, h]

/-- Runs compose. -/
theorem runIn_add (e : Env) (m n : Nat) {s t : State} (h : runIn e m s = .next t) :
    runIn e (m + n) s = runIn e n t := by
  induction m generalizing s with
  | zero =>
    simp only [runIn_zero, Host.Outcome.next.injEq] at h
    simp [h]
  | succ m ih =>
    rw [Nat.succ_add]
    simp only [runIn] at h ⊢
    cases hs : stepIn e s with
    | next u =>
      rw [hs] at h
      exact ih h
    | fault f => simp [hs] at h
    | refused r => simp [hs] at h

end Sys2Proof.Machine
end

