-- ==== Sys2Proof/Laws/PerInstr.lean ====
section
/-! SUPPORT. A statement made of every instruction, one lemma per constructor: the bits it is encoded in are the bits its
row of `opcode_table.json` fixes. The table stands at the default parameters (R98). -/

namespace Sys2Proof

/-- The bits of a frame as the table numbers them: the 13-bit command, the 32-bit word, the 5-bit vector. -/
def frameBits : Frame → Nat
  | .access cmd _ => cmd
  | .layout _ w => w
  | .control _ w => w
  | .tick t => t.toNat

/-- `match` and `mask` of an instruction's row, copied from the table; a layout row fixes no bit. -/
def tableRow : Instr → Nat × Nat
  | .wrCCtrl _ => (0x18FC, 0x1FFF)
  | .wrDCtrl _ => (0x18FD, 0x1FFF)
  | .rdCStat => (0x0CFE, 0x1FFF)
  | .rdDStat => (0x0CFF, 0x1FFF)
  | .rdCRst => (0x0CED, 0x1FFF)
  | .rdDRst => (0x0CEE, 0x1FFF)
  | .rdCycle => (0x08FF, 0x1FFF)
  | .wrCycle _ => (0x18FF, 0x1FFF)
  | .rdInstr => (0x08FE, 0x1FFF)
  | .wrInstr _ => (0x18FE, 0x1FFF)
  | .cctl _ => (0, 0)
  | .dctl _ => (0, 0)
  | .cst _ => (0, 0)
  | .dst _ => (0, 0)
  | .cFeed _ => (0x00000002, 0xFFFFF807)
  | .cAck => (0x00000004, 0xFFFFFFFF)
  | .dInput _ => (0x00000001, 0x00000003)
  | .dAck => (0x00000002, 0xFFFFFFFF)
  | .tickFeed _ _ _ => (0x18, 0x18)
  | .tickXferA _ _ => (0x06, 0x16)
  | .tickXferB _ => (0x16, 0x1E)
  | .tickDrainA _ _ => (0x01, 0x15)
  | .tickDrainB _ => (0x05, 0x17)
  | .tickDrainC _ => (0x11, 0x1D)
  | .tickDrainD => (0x15, 0x1F)
  | .tickIdleA _ _ => (0x00, 0x15)
  | .tickIdleB _ => (0x04, 0x17)
  | .tickIdleC _ => (0x10, 0x1D)
  | .tickIdleD => (0x14, 0x1F)

end Sys2Proof

namespace Sys2Proof.Laws.TableRow

/-- The bits an instruction is encoded in, at the default parameters, have its row's `match` under its row's `mask`. -/
def Statement (i : Instr) : Prop := frameBits (encode Params.default i) &&& (tableRow i).2 = (tableRow i).1

theorem wrCCtrl (v : Nat) : Statement (.wrCCtrl v) := by
  show accessCmd Params.default true 0x8FC &&& 0x1FFF = 0x18FC
  decide
theorem wrDCtrl (v : Nat) : Statement (.wrDCtrl v) := by
  show accessCmd Params.default true 0x8FD &&& 0x1FFF = 0x18FD
  decide
theorem rdCStat : Statement .rdCStat := rfl
theorem rdDStat : Statement .rdDStat := rfl
theorem rdCRst : Statement .rdCRst := rfl
theorem rdDRst : Statement .rdDRst := rfl
theorem rdCycle : Statement .rdCycle := rfl
theorem wrCycle (v : Nat) : Statement (.wrCycle v) := by
  show accessCmd Params.default true 0x8FF &&& 0x1FFF = 0x18FF
  decide
theorem rdInstr : Statement .rdInstr := rfl
theorem wrInstr (v : Nat) : Statement (.wrInstr v) := by
  show accessCmd Params.default true 0x8FE &&& 0x1FFF = 0x18FE
  decide
theorem cctl (f : Cctl) : Statement (.cctl f) := Nat.and_zero _
theorem dctl (f : Dctl) : Statement (.dctl f) := Nat.and_zero _
theorem cst (f : Cst) : Statement (.cst f) := Nat.and_zero _
theorem dst (f : Dst) : Statement (.dst f) := Nat.and_zero _
theorem cFeed (b : Byte) : Statement (.cFeed b) := by
  revert b
  show ∀ b : Byte, encCctl Params.default (feedRecord b) &&& 0xFFFFF807 = 0x00000002
  decide
theorem cAck : Statement .cAck := rfl
theorem dInput (s : Nat) : Statement (.dInput s) := by
  show encDctl Params.default (inputRecord s) &&& 3 = 1
  rw [show 3 = 2 ^ 2 - 1 from rfl, Nat.and_two_pow_sub_one_eq_mod, encDctl_eq Params.default_legal]
  simp only [inputRecord, Bool.toNat_true, Bool.toNat_false]
  omega
theorem dAck : Statement .dAck := rfl
theorem tickFeed (a b c : Bool) : Statement (.tickFeed a b c) := by cases a <;> cases b <;> cases c <;> rfl
theorem tickXferA (a b : Bool) : Statement (.tickXferA a b) := by cases a <;> cases b <;> rfl
theorem tickXferB (a : Bool) : Statement (.tickXferB a) := by cases a <;> rfl
theorem tickDrainA (a b : Bool) : Statement (.tickDrainA a b) := by cases a <;> cases b <;> rfl
theorem tickDrainB (a : Bool) : Statement (.tickDrainB a) := by cases a <;> rfl
theorem tickDrainC (a : Bool) : Statement (.tickDrainC a) := by cases a <;> rfl
theorem tickDrainD : Statement .tickDrainD := rfl
theorem tickIdleA (a b : Bool) : Statement (.tickIdleA a b) := by cases a <;> cases b <;> rfl
theorem tickIdleB (a : Bool) : Statement (.tickIdleB a) := by cases a <;> rfl
theorem tickIdleC (a : Bool) : Statement (.tickIdleC a) := by cases a <;> rfl
theorem tickIdleD : Statement .tickIdleD := rfl

end Sys2Proof.Laws.TableRow
end

