-- ==== Sys2Proof/Laws/Tick.lean ====
section
/-! SUPPORT. What an outcome, the end of a tick, and an instruction can do, said once. -/

namespace Sys2Proof.Machine

/-- What an outcome can do: `FEED`, `XFER`, `DRAIN` or nothing, with the flags that select it (R150). -/
theorem State.outcome_cases (e : Env) (c : Cst) (d : Dst) (s : State) :
    (c.inputReady = true ∧ s.more = true ∧ s.outcome e c d = s.feed e) ∨
    (¬(c.inputReady = true ∧ s.more = true) ∧ c.outputValid = true ∧ d.inputReady = true ∧
      s.outcome e c d = s.xfer e c) ∨
    (¬(c.inputReady = true ∧ s.more = true) ∧ ¬(c.outputValid = true ∧ d.inputReady = true) ∧
      d.outputValid = true ∧ s.outcome e c d = s.drain e d) ∨
    (¬(c.inputReady = true ∧ s.more = true) ∧ ¬(c.outputValid = true ∧ d.inputReady = true) ∧
      d.outputValid = false ∧ s.outcome e c d = s) := by
  simp only [State.outcome]
  cases c.inputReady <;> cases s.more <;> cases c.outputValid <;> cases d.inputReady <;>
    cases d.outputValid <;> simp

/-- The end of a tick changes the count, the status records and the position only. -/
theorem State.endTick_frame (s : State) :
    s.endTick.world = s.world ∧ s.endTick.args = s.args ∧ s.endTick.inCur = s.inCur ∧ s.endTick.outCur = s.outCur
      ∧ s.endTick.outBuf = s.outBuf ∧ s.endTick.mid = s.mid ∧ s.endTick.phase = s.phase ∧ s.endTick.fault = s.fault
      ∧ s.endTick.s0 = s.s0 := by
  simp only [State.endTick]
  split <;> simp

/-- Decoding the vector of five flags selects by the flags. -/
theorem decodeTick_tickBits : ∀ more cIR cOV dIR dOV : Bool,
    decodeTick (tickBits more cIR cOV dIR dOV) = decodeTickBits more cIR cOV dIR dOV := by decide

/-- A row whose outcome is the one its flags select does `State.outcome`. -/
theorem State.tickRow_outcome {e : Env} {s u : State} {more cIR cOV dIR dOV : Bool} {o : Cst → Dst → State → State}
    (ho : ∀ c d, s.more = more → c.inputReady = cIR → c.outputValid = cOV → d.inputReady = dIR → d.outputValid = dOV →
      o c d s = s.outcome e c d)
    (h : s.tickRow (tickBits more cIR cOV dIR dOV) o = .next u) :
    ∃ c d, s.cst = some c ∧ s.dst = some d ∧ s.inRun = true ∧ u = (s.outcome e c d).endTick := by
  obtain ⟨c, d, hc, hd, hr, rfl⟩ := State.tickRow_next.1 h
  obtain ⟨hr, c', d', hc', hd', hv⟩ := (s.tickReady_iff _).1 hr
  cases hc.symm.trans hc'
  cases hd.symm.trans hd'
  obtain ⟨h1, h2, h3, h4, h5⟩ := tickBits_inj hv
  exact ⟨c, d, hc, hd, (s.inRun_iff).2 hr, by rw [ho c d h1 h2 h3 h4 h5]⟩

/-- What an instruction can do when it answers a next state: an access, a control word or a codec call touches the
registers, the units and what goes back to the caller, and leaves words where there were words; a tick row ends the tick in
progress with its outcome. -/
theorem execIn_cases {e : Env} {i : Instr} {s u : State} (h : execIn e i s = .next u) :
    (∃ w r c, u = { s with world := w, rdata := r, record := c } ∧
      (s.world.fits s.params → s.rdata < 2 ^ s.params.W → w.fits s.params ∧ r < 2 ^ s.params.W)) ∨
    ∃ c d, s.cst = some c ∧ s.dst = some d ∧ s.inRun = true ∧ u = (s.outcome e c d).endTick := by
  have written : ∀ r x, (s.world.regWrite s.params e r x).fits s.params := fun _ _ => World.regWrite_counters_lt ..
  have read : ∀ r, (s.world.regRead s.params e r).2.fits s.params := fun _ => World.regRead_counters_lt ..
  have word : ∀ r, (s.world.regRead s.params e r).1 < 2 ^ s.params.W := fun _ => World.regRead_lt ..
  cases i
  case tickFeed => exact .inr (State.tickRow_outcome (by intros; simp [State.outcome, *]) h)
  case tickXferA => exact .inr (State.tickRow_outcome (by intros; simp [State.outcome, *]) h)
  case tickXferB => exact .inr (State.tickRow_outcome (by intros; simp [State.outcome, *]) h)
  case tickDrainA => exact .inr (State.tickRow_outcome (by intros; simp [State.outcome, *]) h)
  case tickDrainB => exact .inr (State.tickRow_outcome (by intros; simp [State.outcome, *]) h)
  case tickDrainC => exact .inr (State.tickRow_outcome (by intros; simp [State.outcome, *]) h)
  case tickDrainD => exact .inr (State.tickRow_outcome (by intros; simp [State.outcome, *]) h)
  case tickIdleA => exact .inr (State.tickRow_outcome (o := fun _ _ s => s) (by intros; simp [State.outcome, *]) h)
  case tickIdleB => exact .inr (State.tickRow_outcome (o := fun _ _ s => s) (by intros; simp [State.outcome, *]) h)
  case tickIdleC => exact .inr (State.tickRow_outcome (o := fun _ _ s => s) (by intros; simp [State.outcome, *]) h)
  case tickIdleD => exact .inr (State.tickRow_outcome (o := fun _ _ s => s) (by intros; simp [State.outcome, *]) h)
  case cctl => cases h; exact .inl ⟨_, _, _, rfl, fun h _ => ⟨h, encCctl_lt _ _⟩⟩
  case dctl => cases h; exact .inl ⟨_, _, _, rfl, fun h _ => ⟨h, encDctl_lt _ _⟩⟩
  case cst => cases h; exact .inl ⟨_, _, _, rfl, fun h _ => ⟨h, encCst_lt _ _⟩⟩
  case dst => cases h; exact .inl ⟨_, _, _, rfl, fun h _ => ⟨h, encDst_lt _ _⟩⟩
  all_goals
    cases h
    first
    | exact .inl ⟨_, _, _, rfl, fun _ _ => ⟨read _, word _⟩⟩
    | exact .inl ⟨_, _, _, rfl, fun _ h => ⟨written _ _, h⟩⟩

/-- The row a decode vector selects does the outcome of the two status records (R91, R150). -/
theorem execIn_decodeTick (e : Env) {s : State} {c : Cst} {d : Dst} (hr : s.inRun = true) (hc : s.cst = some c)
    (hd : s.dst = some d) : execIn e (decodeTick (s.vectorOf c d)) s = .next (s.outcome e c d).endTick := by
  have rdy : s.tickReady (s.vectorOf c d) = true := by
    rw [State.tickReady_iff]
    exact ⟨(s.inRun_iff).1 hr, c, d, hc, hd, rfl⟩
  simp only [State.vectorOf, decodeTick_tickBits, State.outcome] at rdy ⊢
  generalize s.more = m at *
  generalize c.inputReady = a at *
  generalize c.outputValid = b at *
  generalize d.inputReady = x at *
  generalize d.outputValid = y at *
  cases m <;> cases a <;> cases b <;> cases x <;> cases y <;>
    first
    | exact State.tickRow_of (o := fun _ _ s => s) hc hd rdy
    | exact State.tickRow_of hc hd rdy

/-- The row of a vector that the tick in progress does not have is refused. -/
theorem execIn_decodeTick_refused (e : Env) {s : State} {t : BitVec 5} (h : s.tickReady t = false) :
    execIn e (decodeTick t) s = .refused .tickConditionFalse := by
  have key : ∀ m a b x y, s.tickReady (tickBits m a b x y) = false →
      execIn e (decodeTickBits m a b x y) s = .refused .tickConditionFalse := by
    intro m a b x y h
    cases m <;> cases a <;> cases b <;> cases x <;> cases y <;>
      first
      | exact State.tickRow_refused (o := fun _ _ s => s) h
      | exact State.tickRow_refused h
  have bits : ∀ t : BitVec 5, tickBits (flagOf t.toNat 4) (flagOf t.toNat 3) (flagOf t.toNat 2) (flagOf t.toNat 1)
      (flagOf t.toNat 0) = t := by decide
  exact key _ _ _ _ _ (by rw [bits]; exact h)

end Sys2Proof.Machine
end

