-- ==== Sys2Proof/Laws/Step.lean ====
section
/-! SUPPORT. What a step can do, said once. -/

namespace Sys2Proof.Machine

/-- What a step from a state can lead to, one constructor for each way (R165, R150): the host's requests, the accesses of
the run's fixed sequence, the moves at a loop's head, the two status reads and the outcome of a tick, the run's end. -/
inductive StepCase (e : Env) (s : State) : State → Prop
  | noRequest (hq : s.seq = .idle) (hp : s.port = []) : StepCase e s s
  | runStart (a : RunArgs) (rest : List HostReq) (hq : s.seq = .idle) (hp : s.port = .run a :: rest)
      (hi : s.phase = .idle) (hl : a.legal = true) : StepCase e s ({ s with port := rest }.startRun a)
  | resultsTaken (rest : List HostReq) (hq : s.seq = .idle) (hp : s.port = .takeResults :: rest) :
      StepCase e s { s with port := rest }.takeResults
  | hostOp (f : Frame) (rest : List HostReq) (i : Instr) (t : State) (hq : s.seq = .idle) (hp : s.port = .op f :: rest)
      (hd : decode s.params f = .ok i) (hx : execIn e i { s with port := rest } = .next t) : StepCase e s t
  | resetC (hq : s.seq = .resetC) : StepCase e s { s.read e .cRst with seq := .resetD }
  | resetD (hq : s.seq = .resetD) : StepCase e s { s.read e .dRst with seq := .clearCycle }
  | clearCycle (hq : s.seq = .clearCycle) : StepCase e s { s.write e .cycle 0 with seq := .clearInstr }
  | clearInstr (hq : s.seq = .clearInstr) : StepCase e s { s.write e .instr 0 with seq := .baseCycle }
  | baseCycle (hq : s.seq = .baseCycle) : StepCase e s { s.read e .cycle with seq := .baseInstr }
  | pumpStart (hq : s.seq = .baseInstr) : StepCase e s { s.read e .instr with
      s0 := some ⟨s.rdata, (s.read e .instr).rdata⟩, phase := .pump, seq := .loopHead }
  | tickStart (hq : s.seq = .loopHead) (hr : s.inRun = true) (hg : s.loopGoes = true) (hb : s.budgetSpent = false) :
      StepCase e s { s.read e .cStat with cst := some (decCst s.params (s.read e .cStat).rdata), seq := .readD }
  | budgetHit (hq : s.seq = .loopHead) (hr : s.inRun = true) (hg : s.loopGoes = true) (hb : s.budgetSpent = true) :
      StepCase e s (s.raise .stallBudget (.ticks s.ticks))
  | drainStart (hq : s.seq = .loopHead) (hr : s.inRun = true) (hg : s.loopGoes = false) (hp : s.phase = .pump)
      (hm : s.args.termMode = .drainToLength) : StepCase e s { s with phase := .draining }
  | closeStart (hq : s.seq = .loopHead) (hr : s.inRun = true) (hg : s.loopGoes = false)
      (hm : s.phase = .draining ∨ s.args.termMode = .inputOnly) : StepCase e s { s with seq := .closeCycle }
  | faultSeen (hq : s.seq = .loopHead) (hp : s.phase = .pump ∨ s.phase = .draining) (hf : s.fault ≠ .none) :
      StepCase e s { s with phase := .faulted, seq := .idle }
  | secondRead (hq : s.seq = .readD) :
      StepCase e s { s.read e .dStat with dst := some (decDst s.params (s.read e .dStat).rdata), seq := .decide }
  | outcome (c : Cst) (d : Dst) (hq : s.seq = .decide) (hc : s.cst = some c) (hd : s.dst = some d)
      (hr : s.inRun = true) : StepCase e s (s.outcome e c d).endTick
  | closeCycle (hq : s.seq = .closeCycle) : StepCase e s { s.read e .cycle with seq := .closeInstr }
  | closeInstr (hq : s.seq = .closeInstr) : StepCase e s { s.read e .instr with
      s1 := some ⟨s.rdata, (s.read e .instr).rdata⟩, seq := .finish }
  | runEnd (a b : Sample) (hq : s.seq = .finish) (h0 : s.s0 = some a) (h1 : s.s1 = some b) :
      StepCase e s (s.closeRun a b)

/-- What the head of a loop does, by its phase, the fault register, the loop's condition and the budget. -/
theorem State.atLoopHead_eq (s : State) (hp : s.phase = .pump ∨ s.phase = .draining) :
    s.atLoopHead =
      if s.fault ≠ .none then .silent { s with phase := .faulted, seq := .idle }
      else if s.loopGoes = true then s.beginTick
      else if s.phase = .pump ∧ s.args.termMode = .drainToLength then .silent { s with phase := .draining }
      else .silent { s with seq := .closeCycle } := by
  rcases hp with hp | hp <;> simp only [State.atLoopHead, State.loopGoes, State.leavePump, hp] <;>
    cases hf : s.fault <;> simp
  split
  · rfl
  · split <;> rfl

/-- Outside the two loops' phases the head of a loop faults. -/
theorem State.atLoopHead_fault (s : State) (hp : ¬(s.phase = .pump ∨ s.phase = .draining)) :
    s.atLoopHead = .fault .phaseOutsideLoop := by
  simp only [State.atLoopHead]
  split <;> simp_all

/-- A move of the sequencer alone is one of the cases. -/
theorem stepCase_silent {e : Env} {s t : State} (h : s.nextOp = .silent t) : StepCase e s t := by
  cases hq : s.seq <;> simp only [State.nextOp, hq] at h <;> try (exact absurd h (by simp))
  case idle =>
    simp only [State.serveHost] at h
    split at h
    · next hp => cases h; exact .noRequest hq hp
    · next hp =>
      split at h
      · next hi =>
        split at h <;> cases h
        next hl => exact .runStart _ _ hq hp hi hl
      · cases h
    · next hp => cases h; exact .resultsTaken _ hq hp
    · simp only [fetchFrame] at h
      split at h <;> cases h
  case loopHead =>
    by_cases hp : s.phase = .pump ∨ s.phase = .draining
    · rw [State.atLoopHead_eq s hp] at h
      split at h
      · next hf => cases h; exact .faultSeen hq hp hf
      · next hf =>
        have hr : s.inRun = true := (s.inRun_iff).2 ⟨hp, by simpa using hf⟩
        split at h
        · next hg =>
          simp only [State.beginTick] at h
          split at h <;> cases h
          next hb =>
            rw [State.budgetCheck, if_pos hb]
            exact .budgetHit hq hr hg hb
        · next hg =>
          have hg : s.loopGoes = false := by simpa using hg
          split at h <;> cases h
          · next hm => exact .drainStart hq hr hg hm.1 hm.2
          · next hm =>
            refine .closeStart hq hr hg ?_
            cases ht : s.args.termMode <;> simp_all
    · rw [State.atLoopHead_fault s hp] at h
      cases h
  case decide =>
    simp only [State.fetchOutcome, fetchFrame, decode] at h
    split at h <;> cases h
  case finish =>
    split at h <;> cases h
    next h0 h1 => exact .runEnd _ _ hq h0 h1

/-- An instruction that is fetched and answers a next state leads to one of the cases. -/
theorem stepCase_instr {e : Env} {s u : State} {i : Instr} (h : s.nextOp = .instr i)
    (hx : execIn e i s.issued = .next u) : StepCase e s (s.afterOp u) := by
  cases hq : s.seq <;> simp only [State.nextOp, hq] at h <;> simp only [State.issued, State.afterOp, hq] at hx ⊢
  case idle =>
    simp only [State.serveHost] at h
    split at h
    · cases h
    · split at h
      · split at h <;> cases h
      · cases h
    · cases h
    · next f rest hp =>
      simp only [fetchFrame] at h
      split at h <;> cases h
      next hd => exact .hostOp f rest i u hq hp hd (by simpa [hp, ← hq] using hx)
  case loopHead =>
    by_cases hp : s.phase = .pump ∨ s.phase = .draining
    · rw [State.atLoopHead_eq s hp] at h
      split at h
      · cases h
      · next hf =>
        split at h
        · next hg =>
          simp only [State.beginTick] at h
          split at h <;> cases h
          next hb =>
            cases hx
            exact .tickStart hq ((s.inRun_iff).2 ⟨hp, by simpa using hf⟩) hg (by simpa using hb)
        · split at h <;> cases h
    · rw [State.atLoopHead_fault s hp] at h
      cases h
  case decide =>
    simp only [State.fetchOutcome, fetchFrame, decode, State.tickVector] at h
    split at h <;> cases h
    next t ht =>
      split at ht <;> cases ht
      next c d hc hd =>
        by_cases hr : s.inRun = true
        · rw [if_neg (by decide), execIn_decodeTick e hr hc hd] at hx
          cases hx
          exact .outcome c d hq hc hd hr
        · rw [if_neg (by decide), execIn_decodeTick_refused e (by simp [State.tickReady, hr])] at hx
          cases hx
  case finish => split at h <;> cases h
  case resetC => cases h; cases hx; exact .resetC hq
  case resetD => cases h; cases hx; exact .resetD hq
  case clearCycle => cases h; cases hx; exact .clearCycle hq
  case clearInstr => cases h; cases hx; exact .clearInstr hq
  case baseCycle => cases h; cases hx; exact .baseCycle hq
  case baseInstr => cases h; cases hx; exact .pumpStart hq
  case readD => cases h; cases hx; exact .secondRead hq
  case closeCycle => cases h; cases hx; exact .closeCycle hq
  case closeInstr => cases h; cases hx; exact .closeInstr hq

/-- Every step to a next state is one of the cases, in any environment. -/
theorem stepIn_cases {e : Env} {s t : State} (h : stepIn e s = .next t) : StepCase e s t := by
  obtain h | ⟨i, u, hn, hx, rfl⟩ := stepWith_next.1 h
  · exact stepCase_silent h
  · exact stepCase_instr hn hx

/-- Every step of the machine to a next state is one of the cases in its own environment. -/
theorem step_cases {s t : State} (h : step s = .next t) : StepCase Config.env s t := by
  obtain h | ⟨i, u, hn, hx, rfl⟩ := stepWith_next.1 h
  · exact stepCase_silent h
  · exact stepCase_instr hn (by rw [execIn_env]; exact hx)

end Sys2Proof.Machine
end

