-- ==== Sys2Proof/Tests/Slice0.lean ====
section
/-! SUPPORT. Tests on fixed values: words written out from the spec's tables, the spec's vectors, and one witness for the
hypotheses of each obligation that has some. None of them is a statement for the provers. -/

namespace Sys2Proof.Machine

/-- The parameters the table and the spec's vectors stand at (R98). -/
abbrev P0 : Params := Params.default

/-- The least legal widths, at which both control layouts have reserved bits, and other addresses (R7, R8, R9). -/
def smallParams : Params :=
  ⟨20, 8, 1, 3, 0, 1, 2, 3, 4, 5, 6, 7⟩

/-! ## Decoding: every row's word, written out from 30 (R90, R80, R96, R91) -/

theorem test_decode_wr_c_ctrl : decode P0 (.access 0b1_1000_1111_1100 (some 5)) = .ok (.wrCCtrl 5) := by decide
theorem test_decode_wr_d_ctrl : decode P0 (.access 0b1_1000_1111_1101 (some 5)) = .ok (.wrDCtrl 5) := by decide
theorem test_decode_rd_c_stat : decode P0 (.access 0b0_1100_1111_1110 none) = .ok .rdCStat := by decide
theorem test_decode_rd_d_stat : decode P0 (.access 0b0_1100_1111_1111 none) = .ok .rdDStat := by decide
theorem test_decode_rd_c_rst : decode P0 (.access 0b0_1100_1110_1101 none) = .ok .rdCRst := by decide
theorem test_decode_rd_d_rst : decode P0 (.access 0b0_1100_1110_1110 none) = .ok .rdDRst := by decide
theorem test_decode_rd_cycle : decode P0 (.access 0b0_1000_1111_1111 none) = .ok .rdCycle := by decide
theorem test_decode_wr_cycle : decode P0 (.access 0b1_1000_1111_1111 (some 0)) = .ok (.wrCycle 0) := by decide
theorem test_decode_rd_instr : decode P0 (.access 0b0_1000_1111_1110 none) = .ok .rdInstr := by decide
theorem test_decode_wr_instr : decode P0 (.access 0b1_1000_1111_1110 (some 0)) = .ok (.wrInstr 0) := by decide
theorem test_decode_cctl : decode P0 (.layout .cctl 0x0000020A) = .ok (.cctl ⟨false, true, false, 0x41⟩) := by decide
theorem test_decode_dctl : decode P0 (.layout .dctl 0x00000105) = .ok (.dctl ⟨true, false, 0x41⟩) := by decide
theorem test_decode_cst : decode P0 (.layout .cst 0x80000003) = .ok (.cst ⟨true, true, 0x20000000⟩) := by decide
theorem test_decode_dst : decode P0 (.layout .dst 0x000FFFFE) = .ok (.dst ⟨false, true, 0xFFFF, 3⟩) := by decide
theorem test_decode_c_feed : decode P0 (.control .compressor 0x00000552) = .ok (.cFeed 0xAA) := by decide
theorem test_decode_c_ack : decode P0 (.control .compressor 0x00000004) = .ok .cAck := by decide
theorem test_decode_d_input : decode P0 (.control .decompressor 0x00000555) = .ok (.dInput 0x155) := by decide
theorem test_decode_d_ack : decode P0 (.control .decompressor 0x00000002) = .ok .dAck := by decide
theorem test_decode_tick_feed : decode P0 (.tick 0b11010) = .ok (.tickFeed false true false) := by decide
theorem test_decode_tick_xfer_a : decode P0 (.tick 0b01110) = .ok (.tickXferA true false) := by decide
theorem test_decode_tick_xfer_b : decode P0 (.tick 0b10111) = .ok (.tickXferB true) := by decide
theorem test_decode_tick_drain_a : decode P0 (.tick 0b01001) = .ok (.tickDrainA true false) := by decide
theorem test_decode_tick_drain_b : decode P0 (.tick 0b01101) = .ok (.tickDrainB true) := by decide
theorem test_decode_tick_drain_c : decode P0 (.tick 0b10011) = .ok (.tickDrainC true) := by decide
theorem test_decode_tick_drain_d : decode P0 (.tick 0b10101) = .ok .tickDrainD := by decide
theorem test_decode_tick_idle_a : decode P0 (.tick 0b00010) = .ok (.tickIdleA false true) := by decide
theorem test_decode_tick_idle_b : decode P0 (.tick 0b01100) = .ok (.tickIdleB true) := by decide
theorem test_decode_tick_idle_c : decode P0 (.tick 0b10010) = .ok (.tickIdleC true) := by decide
theorem test_decode_tick_idle_d : decode P0 (.tick 0b10100) = .ok .tickIdleD := by decide

/-! What the decoder refuses, by name (R57, R90, R93, R96). -/

theorem test_decode_read_of_control : decode P0 (.access 0x08FC none) = .error (.undefinedAccess false 0x8FC) := by decide
theorem test_decode_write_of_status :
    decode P0 (.access 0x1CFE (some 0)) = .error (.undefinedAccess true 0xCFE) := by decide
theorem test_decode_write_without_data : decode P0 (.access 0x18FC none) = .error .dataMissing := by decide
theorem test_decode_read_with_data : decode P0 (.access 0x0CFE (some 0)) = .error .dataUnexpected := by decide
theorem test_decode_no_short_form :
    decode P0 (.control .compressor 0x00000001) = .error (.notShortForm .compressor 0x00000001) := by decide

theorem test_decode_no_command : decode P0 (.access (2 ^ 13) none) = .error (.notCommand (2 ^ 13)) := by decide
theorem test_decode_no_word : decode P0 (.layout .cst (2 ^ 32)) = .error (.notWord (2 ^ 32)) := by decide
theorem test_decode_data_no_word :
    decode P0 (.access 0x18FC (some (2 ^ 32))) = .error (.notWord (2 ^ 32)) := by decide

/-! Decoding at other parameters: `dir` is bit `ADDR_W`, a word has `W` bits (R90, R80). -/

theorem test_decode_small_wr_c_ctrl : decode smallParams (.access 0b1000 (some 0xFFFFF)) = .ok (.wrCCtrl 0xFFFFF) := by
  decide
theorem test_decode_small_rd_instr : decode smallParams (.access 0b0111 none) = .ok .rdInstr := by decide
theorem test_decode_small_read_of_control :
    decode smallParams (.access 0b0001 none) = .error (.undefinedAccess false 1) := by decide
theorem test_decode_small_d_input : decode smallParams (.control .decompressor 0b101) = .ok (.dInput 1) := by decide
theorem test_decode_small_reserved :
    decode smallParams (.control .decompressor 0b1001) = .error (.notShortForm .decompressor 0b1001) := by decide

/-! ## Well-formedness: an ill-formed term for each check (R111) -/

theorem test_ill_formed_cctl : (Instr.cctl ⟨false, true, false, 2 ^ 29⟩).wellFormed P0 = false := by decide
theorem test_ill_formed_dctl : (Instr.dctl ⟨true, false, 2 ^ 30⟩).wellFormed P0 = false := by decide
theorem test_ill_formed_cst : (Instr.cst ⟨true, true, 2 ^ 30⟩).wellFormed P0 = false := by decide
theorem test_ill_formed_dst_output : (Instr.dst ⟨true, true, 2 ^ 16, 0⟩).wellFormed P0 = false := by decide
theorem test_ill_formed_dst_length : (Instr.dst ⟨true, true, 0, 2 ^ 14⟩).wellFormed P0 = false := by decide
theorem test_ill_formed_d_input : (Instr.dInput (2 ^ 30)).wellFormed P0 = false := by decide
theorem test_ill_formed_wr_c_ctrl : (Instr.wrCCtrl (2 ^ 32)).wellFormed P0 = false := by decide
theorem test_ill_formed_wr_d_ctrl : (Instr.wrDCtrl (2 ^ 32)).wellFormed P0 = false := by decide
theorem test_ill_formed_wr_cycle : (Instr.wrCycle (2 ^ 32)).wellFormed P0 = false := by decide
theorem test_ill_formed_wr_instr : (Instr.wrInstr (2 ^ 32)).wellFormed P0 = false := by decide
theorem test_well_formed_cctl : (Instr.cctl ⟨true, true, true, 2 ^ 29 - 1⟩).wellFormed P0 = true := by decide

/-! ## The spec's vectors (95 section 2) -/

theorem test_v1_masked : encCctl P0 ⟨false, true, false, 0x20000001⟩ = 0x0000000A := by decide
theorem test_v1_maximum : encCctl P0 ⟨true, true, true, 0x1FFFFFFF⟩ = 0xFFFFFFFF := by decide
theorem test_v2_masked : encDctl P0 ⟨true, false, 0x40000005⟩ = 0x00000015 := by decide
theorem test_v3_not_valid : decCst P0 0x00000FFC = ⟨false, false, 0x3FF⟩ := by decide
theorem test_v3_encode : encCst P0 ⟨true, true, 0x155⟩ = 0x00000557 := by decide
theorem test_v4_two_bytes : decDst P0 0x0009050A = ⟨false, true, 0x4142, 2⟩ := by decide
theorem test_v4_encode : encDst P0 ⟨false, true, 0x1234, 0⟩ = 0x000048D2 := by decide
theorem test_v5_two : unpack 0x4142 2 = [0x41, 0x42] := by decide
theorem test_v5_one : unpack 0x4142 1 = [0x42] := by decide
theorem test_v5_pack : pack [0x41, 0x42] = some (0x4142, 2) := by decide
theorem test_r185_wrap : pcDelta P0 ⟨0xFFFFFFF0, 5⟩ ⟨0x00000010, 9⟩ = ⟨0x20, 4⟩ := by decide
theorem test_r200_unwritten :
    compare [0x41, 0x42] 4 [(0, 0x41)] = [⟨1, 0x42, none⟩] := by decide

/-! ## One step on a small state -/

/-- A tick in progress with these status records, a byte `0x41` left to feed or none, room for four bytes. -/
def tickState (more : Bool) (c : Cst) (d : Dst) : State :=
  { State.reset with
    seq := .decide
    phase := if more then .pump else .draining
    args := { params := P0, inBuf := if more then [0x41] else [], inCap := 4, outCap := 4
              expectLen := 2, termMode := .drainToLength, tickBudget := none }
    cst := some c
    dst := some d }

/-- Units that always show these two status words; the counters advance by 3 and 1. -/
def shownEnv : Env := clockEnv (scriptedUnit .cStat [0x106]) (scriptedUnit .dStat [0x9050A]) 3 1

/-- The state a step leads to, if it leads to one. -/
def nextOf : Result → Option State
  | .next s => some s
  | .fault _ => none
  | .refused _ => none

/-- The accesses a step adds to those made before, latest first. -/
def accessesOf (r : Result) : Option (List Access) := (nextOf r).map (·.world.trace)

theorem test_wr_c_ctrl : accessesOf (execIn shownEnv (.wrCCtrl 0x20A) State.reset) = some [.write .cCtrl 0x20A] := by decide
theorem test_wr_d_ctrl : accessesOf (execIn shownEnv (.wrDCtrl 0x105) State.reset) = some [.write .dCtrl 0x105] := by decide
/-- The word written reaches the unit: `MockC` takes the byte of a word with `inputValid` (95 section 3). -/
theorem test_wr_c_ctrl_unit : (nextOf (execIn (clockEnv (mockC P0) (mockD P0) 3 1) (.wrCCtrl 0x20A) State.reset)).map
    (fun s => (s.world.unitC, s.world.unitD)) = some ([0x41], []) := by decide
theorem test_wr_d_ctrl_unit : (nextOf (execIn (clockEnv (mockC P0) (mockD P0) 3 1) (.wrDCtrl 0x105) State.reset)).map
    (fun s => (s.world.unitC, s.world.unitD)) = some ([], [0x41]) := by decide
theorem test_rd_c_stat : (nextOf (execIn shownEnv .rdCStat State.reset)).map
    (fun s => (s.rdata, s.world.trace)) = some (0x106, [.read .cStat 0x106]) := by decide
theorem test_rd_d_stat : (nextOf (execIn shownEnv .rdDStat State.reset)).map
    (fun s => (s.rdata, s.world.trace)) = some (0x9050A, [.read .dStat 0x9050A]) := by decide
theorem test_rd_c_rst :
    (nextOf (execIn (clockEnv (mockC P0) (mockD P0) 3 1) .rdCRst { State.reset with world := ⟨0, 0, [7], [8], []⟩ })).map
      (fun s => (s.world.unitC, s.world.unitD)) = some ([], [8]) := by decide
theorem test_rd_d_rst :
    (nextOf (execIn (clockEnv (mockC P0) (mockD P0) 3 1) .rdDRst { State.reset with world := ⟨0, 0, [7], [8], []⟩ })).map
      (fun s => (s.world.unitC, s.world.unitD)) = some ([7], []) := by decide
theorem test_rd_cycle_wraps :
    (nextOf (execIn shownEnv .rdCycle { State.reset with world := ⟨0xFFFFFFFE, 0, [], [], []⟩ })).map
      (fun s => (s.rdata, s.world.cyc)) = some (1, 1) := by decide
/-- With `W = 20` the counter wraps at `2^20` (R26, R180). -/
theorem test_rd_cycle_wraps_small :
    (nextOf (execIn shownEnv .rdCycle { State.reset with
      world := ⟨0xFFFFE, 0, [], [], []⟩, args := { RunArgs.none with params := smallParams } })).map
      (fun s => (s.rdata, s.world.cyc)) = some (1, 1) := by decide
theorem test_wr_cycle :
    (nextOf (execIn shownEnv (.wrCycle 9) State.reset)).map (fun s => (s.world.cyc, s.world.ins)) = some (9, 1) := by decide
theorem test_rd_instr : (nextOf (execIn shownEnv .rdInstr State.reset)).map (·.rdata) = some 1 := by decide
theorem test_wr_instr :
    (nextOf (execIn shownEnv (.wrInstr 9) State.reset)).map (fun s => (s.world.cyc, s.world.ins)) = some (3, 9) := by decide
theorem test_cctl_row : (nextOf (exec (.cctl ⟨false, true, false, 0x20000001⟩) State.reset)).map
    (fun s => (s.rdata, s.record)) = some (0xA, some (.cctl ⟨false, true, false, 1⟩)) := by decide
theorem test_dctl_row : (nextOf (exec (.dctl ⟨true, false, 0x40000005⟩) State.reset)).map
    (fun s => (s.rdata, s.record)) = some (0x15, some (.dctl ⟨true, false, 5⟩)) := by decide
theorem test_cst_row : (nextOf (exec (.cst ⟨false, true, 0x41⟩) State.reset)).map (·.rdata) = some 0x106 := by decide
theorem test_dst_row : (nextOf (exec (.dst ⟨false, true, 0xFFFF, 3⟩) State.reset)).map (·.rdata) = some 0xFFFFE := by
  decide
theorem test_c_feed : (nextOf (execIn shownEnv (.cFeed 0xFF) State.reset)).map
    (fun s => (s.world.trace, s.inCur)) = some ([.write .cCtrl 0x7FA], 0) := by decide
theorem test_c_ack : accessesOf (execIn shownEnv .cAck State.reset) = some [.write .cCtrl 4] := by decide
theorem test_d_input : accessesOf (execIn shownEnv (.dInput 0x155) State.reset) = some [.write .dCtrl 0x555] := by decide
theorem test_d_ack : accessesOf (execIn shownEnv .dAck State.reset) = some [.write .dCtrl 2] := by decide

/-- 95, S5: with both conditions true the tick feeds. -/
theorem test_tick_feed : (nextOf (stepIn shownEnv
    { tickState true ⟨true, true, 0x155⟩ ⟨true, true, 0x4142, 2⟩ with args := ⟨P0, [0xAA], 1, 4, 1, .drainToLength, none⟩ })).map
    (fun s => (s.world.trace, s.inCur, s.outCur)) = some ([.write .cCtrl 0x552], 1, 0) := by decide
/-- R153's example: `cst = {0,1,0x41}`, `dst = {1,0,0,0}`. -/
theorem test_tick_xfer_b : (nextOf (stepIn shownEnv (tickState true ⟨false, true, 0x41⟩ ⟨true, false, 0, 0⟩))).map
    (fun s => (s.world.trace, s.mid, s.ticks)) = some ([.write .dCtrl 0x105, .write .cCtrl 4], [0x41], 1) := by decide
/-- R153: with `DC_IN_W < W-2` the symbol is truncated, here to one bit; the ghost log has the symbol transferred. -/
theorem test_tick_xfer_a_truncates : (nextOf (stepIn shownEnv
    { tickState false ⟨true, true, 0x43⟩ ⟨true, true, 0, 1⟩ with args := ⟨smallParams, [], 0, 4, 2, .drainToLength, none⟩ })).map
    (fun s => (s.world.trace, s.mid, s.outCur)) = some ([.write .dCtrl 5, .write .cCtrl 4], [0x43], 0) := by decide
/-- 95, S1: the source's two bytes. -/
theorem test_tick_drain_a : (nextOf (stepIn shownEnv (tickState false ⟨false, false, 0⟩ ⟨true, true, 0x4142, 2⟩))).map
    (fun s => (s.world.trace, s.outBuf, s.outCur)) = some ([.write .dCtrl 2], [(0, 0x41), (1, 0x42)], 2) := by decide
theorem test_tick_drain_b : (nextOf (stepIn shownEnv (tickState false ⟨false, true, 0⟩ ⟨false, true, 0x4142, 1⟩))).map
    (fun s => (s.outBuf, s.outCur)) = some ([(0, 0x42)], 1) := by decide
theorem test_tick_drain_c_empty : (nextOf (stepIn shownEnv (tickState true ⟨false, false, 0⟩ ⟨true, true, 7, 0⟩))).map
    (fun s => (s.outBuf, s.outCur, s.ticks)) = some ([], 0, 1) := by decide
theorem test_tick_drain_d_overflow : (nextOf (stepIn shownEnv
    { tickState true ⟨false, true, 0⟩ ⟨false, true, 0x4142, 2⟩ with outCur := 3 })).map
    (fun s => (s.fault, s.faultInfo, s.phase, s.ticks)) =
      some (.outputOverflow, .overflow 3 2, .faulted, 0) := by decide
theorem test_tick_drain_d_length : (nextOf (stepIn shownEnv
    { tickState true ⟨false, true, 0⟩ ⟨false, true, 0, 3⟩ with outCur := 4 })).map
    (fun s => (s.fault, s.faultInfo, s.world.trace)) = some (.lengthViolation, .length 3, [.write .dCtrl 2]) := by decide
theorem test_tick_idle : (nextOf (stepIn shownEnv (tickState true ⟨false, true, 0⟩ ⟨false, false, 0, 0⟩))).map
    (fun s => (s.world.trace, s.ticks)) = some ([], 1) := by decide
theorem test_tick_idle_draining : (nextOf (stepIn shownEnv (tickState false ⟨true, false, 0⟩ ⟨true, false, 0, 0⟩))).map
    (fun s => (s.ticks, s.phase, s.seq)) = some (1, .draining, .loopHead) := by decide

/-! ## Witnesses: each obligation's hypotheses are met -/

theorem witness_UndefinedAccessRefused :
    let cmds := [2 ^ 12 + P0.aCctl, 2 ^ 12 + P0.aDctl, P0.aCst, P0.aDst, P0.aCrst, P0.aDrst, P0.aCyc, 2 ^ 12 + P0.aCyc,
      P0.aIns, 2 ^ 12 + P0.aIns]
    cmds = [0x18FC, 0x18FD, 0x0CFE, 0x0CFF, 0x0CED, 0x0CEE, 0x08FF, 0x18FF, 0x08FE, 0x18FE]
    ∧ (0x08FC < 2 ^ (1 + P0.addrW) ∧ 0x08FC ∉ cmds) ∧ (0x1FFF < 2 ^ (1 + P0.addrW) ∧ 0x1FFF ∉ cmds)
    ∧ State.reset.seq = .idle ∧ State.reset.params = P0
    ∧ (State.reset.withPort [.op (.access 0x08FC none)]).port = [.op (.access 0x08FC none)]
    ∧ (tickState true ⟨true, false, 0⟩ ⟨false, false, 0, 0⟩).seq ≠ .idle := by decide
theorem witness_AccessEffects : 2 ^ 32 - 1 < 2 ^ State.reset.params.W ∧ State.reset.params.W = 32 := by decide
/-- At the defaults no bit is reserved; at the least widths some are. -/
theorem witness_CodecRoundTripLaws :
    P0.legal = true ∧ smallParams.legal = true ∧ P0.ccInW = P0.W - 3 ∧ P0.dcInW = P0.W - 2
    ∧ fitsCctl smallParams ⟨true, false, true, 255⟩ = true ∧ fitsDctl smallParams ⟨true, false, 1⟩ = true
    ∧ fitsCst smallParams ⟨true, false, 2 ^ 18 - 1⟩ = true ∧ fitsDst smallParams ⟨true, false, 2 ^ 16 - 1, 3⟩ = true
    ∧ 2 ^ 20 - 1 < 2 ^ smallParams.W := by decide
theorem witness_LayoutRowsAreCodecCalls : State.reset.params.legal = true
    ∧ (State.startRun ⟨smallParams, [], 0, 0, 0, .inputOnly, none⟩ State.reset).params.legal = true := by decide
theorem witness_ShortFormsAreOneWrite : State.reset.params.legal = true
    ∧ (State.startRun ⟨smallParams, [], 0, 0, 0, .inputOnly, none⟩ State.reset).params = smallParams := by decide
theorem witness_UnpackUndoesPack : pack [] = some (0, 0) ∧ pack [0xFF] = some (0xFF, 1)
    ∧ pack [0xFF, 0x00] = some (0xFF00, 2) := by decide
theorem witness_DecodeOfEncode : P0.legal = true ∧ (Instr.dst ⟨true, true, 2 ^ 16 - 1, 2 ^ 14 - 1⟩).wellFormed P0 = true
    ∧ (Instr.dInput (2 ^ 30 - 1)).wellFormed P0 = true
    ∧ smallParams.legal = true ∧ (Instr.dInput 1).wellFormed smallParams = true := by decide
theorem witness_EncodeOfDecode : decode P0 (.control .compressor 0x000007FA) = .ok (.cFeed 0xFF)
    ∧ decode P0 (.control .decompressor 0xFFFFFFFD) = .ok (.dInput (2 ^ 30 - 1))
    ∧ decode smallParams (.layout .dctl 0xFFFFF) = .ok (.dctl ⟨true, true, 1⟩) := by decide
theorem witness_FeedRowFeeds :
    (tickState true ⟨true, false, 0⟩ ⟨false, false, 0, 0⟩).params.legal = true
    ∧ (tickState true ⟨true, false, 0⟩ ⟨false, false, 0, 0⟩).tickReady (tickBits true true false false false) = true
    ∧ (tickState true ⟨true, true, 0⟩ ⟨true, true, 0, 0⟩).tickReady (tickBits true true true true true) = true := by decide
/-- Every tick state here has the same parameters as the first, which are legal (`witness_FeedRowFeeds`). -/
theorem witness_XferRowsTransfer :
    (encode P0 (.tickXferA true false) = .tick 0x0E
      ∧ (tickState false ⟨true, true, 2 ^ 30⟩ ⟨true, false, 0, 0⟩).tickReady 0x0E = true)
    ∧ (encode P0 (.tickXferB true) = .tick 0x17
      ∧ (tickState true ⟨false, true, 0x41⟩ ⟨true, true, 0, 0⟩).tickReady 0x17 = true) := by decide
/-- Each of the four rows, at the lengths 0, 1 and 2, the last up to the buffer's last byte. -/
theorem witness_DrainRowsStore :
    (encode P0 (.tickDrainA true false) = .tick 0x09
      ∧ (tickState false ⟨true, false, 0⟩ ⟨false, true, 7, 0⟩).tickReady 0x09 = true)
    ∧ (encode P0 (.tickDrainB false) = .tick 0x05
      ∧ (tickState false ⟨false, true, 0⟩ ⟨false, true, 7, 1⟩).tickReady 0x05 = true)
    ∧ (encode P0 (.tickDrainC true) = .tick 0x13
      ∧ (tickState true ⟨false, false, 0⟩ ⟨true, true, 7, 2⟩).tickReady 0x13 = true)
    ∧ (encode P0 .tickDrainD = .tick 0x15
      ∧ ({ tickState true ⟨false, true, 0⟩ ⟨false, true, 7, 2⟩ with outCur := 2 } : State).tickReady 0x15 = true
      ∧ 2 + 2 ≤ (tickState true ⟨false, true, 0⟩ ⟨false, true, 7, 2⟩).args.outCap) := by decide
/-- The least illegal length, with and without room. -/
theorem witness_DrainLengthViolation :
    (tickState true ⟨false, true, 0⟩ ⟨false, true, 0, 3⟩).tickReady 0x15 = true
    ∧ ({ tickState false ⟨false, false, 0⟩ ⟨false, true, 0, 2 ^ 14 - 1⟩ with outCur := 4 } : State).tickReady 0x01 = true := by
  decide
/-- One byte too many, at both legal lengths that can be too many. -/
theorem witness_DrainOutputOverflow :
    ({ tickState true ⟨false, true, 0⟩ ⟨false, true, 0, 2⟩ with outCur := 3 } : State).tickReady 0x15 = true
    ∧ ({ tickState false ⟨false, false, 0⟩ ⟨false, true, 0, 1⟩ with outCur := 4 } : State).tickReady 0x01 = true
    ∧ (tickState false ⟨false, false, 0⟩ ⟨false, true, 0, 1⟩).args.outCap < 4 + 1 := by decide
theorem witness_IdleRowsOnlyCount :
    (encode P0 (.tickIdleA true true) = .tick 0x0A
      ∧ (tickState false ⟨true, false, 0⟩ ⟨true, false, 0, 0⟩).tickReady 0x0A = true)
    ∧ (encode P0 (.tickIdleB false) = .tick 0x04
      ∧ (tickState false ⟨false, true, 0⟩ ⟨false, false, 0, 0⟩).tickReady 0x04 = true)
    ∧ (encode P0 (.tickIdleC false) = .tick 0x10
      ∧ (tickState true ⟨false, false, 0⟩ ⟨false, false, 0, 0⟩).tickReady 0x10 = true)
    ∧ (encode P0 .tickIdleD = .tick 0x14
      ∧ (tickState true ⟨false, true, 0⟩ ⟨false, false, 0, 0⟩).tickReady 0x14 = true) := by decide
theorem witness_TickRowsRefusedElsewhere :
    encode P0 .tickDrainD = .tick 0x15 ∧ State.reset.tickReady 0x15 = false
    ∧ (tickState true ⟨true, true, 0⟩ ⟨false, true, 0, 0⟩).tickReady 0x15 = false := by decide
theorem witness_OutcomeStepFollowsPriority :
    let s := tickState false ⟨true, true, 0⟩ ⟨true, true, 0, 0⟩
    s.seq = .decide ∧ s.inRun = true ∧ s.cst = some ⟨true, true, 0⟩ ∧ s.dst = some ⟨true, true, 0, 0⟩ := by decide
theorem witness_FeedingWins :
    let s := tickState true ⟨true, true, 0⟩ ⟨true, true, 0, 0⟩
    s.seq = .decide ∧ s.inRun = true ∧ s.cst = some ⟨true, true, 0⟩ ∧ s.dst = some ⟨true, true, 0, 0⟩
      ∧ s.inCur < s.args.inLen := by decide
/-- The head of each loop, with a byte left, one tick of the budget left. -/
theorem witness_ThreeStepsAreOneTick :
    (let s : State := { (tickState true ⟨true, true, 0⟩ ⟨true, true, 0, 0⟩).withBudget (some 1) with seq := .loopHead };
      s.seq = .loopHead ∧ s.inRun = true ∧ s.loopGoes = true ∧ s.budgetSpent = false)
    ∧ let s : State := { tickState false ⟨true, true, 0⟩ ⟨true, true, 0, 0⟩ with seq := .loopHead, outCur := 1 };
      s.seq = .loopHead ∧ s.inRun = true ∧ s.loopGoes = true ∧ s.budgetSpent = false := by decide
theorem witness_StepRunsFetchedInstruction :
    ((State.reset.withPort [.op (.access 0x18FF (some 0))]).seq = .idle
      ∧ decode P0 (.access 0x18FF (some 0)) = .ok (.wrCycle 0))
    ∧ (tickState true ⟨true, false, 0⟩ ⟨false, false, 0, 0⟩).tickVector = some 0x18
    ∧ decode P0 (.tick 0x18) = .ok (.tickFeed false false false) := by decide
/-- Every position of the sequence is some state's; the clause of the loop's head has the witness before this one. -/
theorem witness_RunSequence : ∀ q ∈ [Seq.resetC, .resetD, .clearCycle, .clearInstr, .baseCycle, .baseInstr, .readD,
    .closeCycle, .closeInstr], ({ State.reset with seq := q } : State).seq = q := fun _ _ => rfl
theorem witness_FetchWordIsRunNext :
    decodeTableWord 8 0x1F = some (.tickFeed true true true) ∧ decodeTableWord 16 0x18FC = some (.wrCCtrl 0)
    ∧ decodeTableWord 48 0x000518FC = some (.wrCCtrl 5) ∧ decodeTableWord 32 0x00000004 = some .cAck
    ∧ decodeTableWord 32 0x00000003 = some (.cctl ⟨true, true, false, 0⟩) := by decide

/-- A run of one byte, with a budget; both bounds of R10 met with equality. -/
def oneByteArgs : RunArgs :=
  { params := P0, inBuf := [0x41], inCap := 1, outCap := 1, expectLen := 1, termMode := .drainToLength
    tickBudget := some 3 }
/-- A run that has just been asked for. -/
def askedState : State := State.reset.withPort [.run oneByteArgs]
/-- A run that has just started. -/
def startedState : State := State.startRun oneByteArgs State.reset
/-- The head of the drain phase's loop of that run, with the budget used up. -/
def drainingState : State :=
  { startedState with seq := .loopHead, phase := .draining, inCur := 1, ticks := 3, s0 := some ⟨0, 0⟩ }
/-- An outcome still to come in the drain phase of that run. -/
def drainingTick : State :=
  { drainingState with seq := .decide, ticks := 2, cst := some ⟨true, true, 0⟩, dst := some ⟨true, true, 0, 0⟩ }
/-- A run that ended with a fault, its results not yet taken. -/
def faultedState : State :=
  { startedState with seq := .idle, phase := .faulted, fault := .stallBudget, faultInfo := .ticks 3, ticks := 3
                      port := [.takeResults] }

theorem witness_RunStartInitialises : askedState.seq = .idle ∧ askedState.phase = .idle
    ∧ askedState.port = [.run oneByteArgs] ∧ oneByteArgs.legal = true
    ∧ (askedState.withCounters 0 (2 ^ 32 - 1)).world.ins < 2 ^ oneByteArgs.params.W := by decide
theorem witness_HostRequests :
    ((faultedState.withPort [.run oneByteArgs]).seq = .idle ∧ (faultedState.withPort [.run oneByteArgs]).phase ≠ .idle)
    ∧ ({ oneByteArgs with params := { P0 with W := 19 } } : RunArgs).params.legal = false
    ∧ ({ oneByteArgs with inCap := 0 } : RunArgs).inCap < ({ oneByteArgs with inCap := 0 } : RunArgs).inLen
    ∧ ({ oneByteArgs with outCap := 0 } : RunArgs).outCap < ({ oneByteArgs with outCap := 0 } : RunArgs).expectLen
    ∧ (faultedState.seq = .idle ∧ faultedState.port = [.takeResults] ∧ faultedState.phase = .faulted)
    ∧ State.reset.port = [] := by decide
theorem witness_LoopsEnd :
    (let s : State := { drainingState with phase := .pump };
      s.seq = .loopHead ∧ s.fault = .none ∧ s.args.inLen ≤ s.inCur ∧ s.args.termMode = .drainToLength)
    ∧ (let s : State := { drainingState with phase := .pump, args := { oneByteArgs with termMode := .inputOnly } };
      s.seq = .loopHead ∧ s.fault = .none ∧ s.args.inLen ≤ s.inCur ∧ s.args.termMode = .inputOnly)
    ∧ let s : State := { drainingState with outCur := 1 };
      s.seq = .loopHead ∧ s.fault = .none ∧ s.phase = .draining ∧ s.args.expectLen ≤ s.outCur := by decide
theorem witness_RunCloses :
    let s : State := { drainingState with seq := .finish, s1 := some ⟨1, 1⟩ };
    s.seq = .finish ∧ s.s0 = some ⟨0, 0⟩ ∧ s.s1 = some ⟨1, 1⟩ := by decide
theorem witness_BudgetStopsTheLoop : drainingState.seq = .loopHead ∧ drainingState.inRun = true
    ∧ drainingState.loopGoes = true ∧ drainingState.args.tickBudget = some 3 ∧ 3 ≤ drainingState.ticks := by decide
theorem witness_BudgetNotHitChangesNothing :
    (drainingState.withBudget none).seq ≠ .idle ∧ (drainingState.withBudget none).args.tickBudget = none
    ∧ (drainingState.withBudget none).ticks < 4 ∧ ∃ t, step (drainingState.withBudget none) = .next t :=
  ⟨by decide, rfl, by decide, _, rfl⟩
theorem witness_StepsFollowRun :
    askedState.seq = .idle ∧ askedState.port = [.run oneByteArgs] ∧ oneByteArgs.legal = true
    ∧ (State.runWhole (clockEnv (mockC P0) (mockD P0) 3 1) 3 oneByteArgs (askedState.withPort [])).isSome = true := by decide
theorem witness_IdentityUnitsRoundTrip :
    let a : RunArgs := ⟨P0, [0x41, 0x42], 2, 2, 2, .drainToLength, none⟩
    P0.legal = true ∧ 8 ≤ P0.dcInW ∧ a.inBuf.length ≤ 2 ∧ (State.reset.withPort [.run a]).port = [.run a] ∧ (State.reset.withPort [.run a]).seq = .idle
      ∧ (State.reset.withPort [.run a]).phase = .idle := by decide
theorem witness_DeadUnitsStallForever :
    let s : State := { startedState.withBudget none with seq := .loopHead, phase := .pump }
    s.seq = .loopHead ∧ s.phase = .pump ∧ s.fault = .none ∧ s.inCur < s.args.inLen ∧ s.args.tickBudget = none := by decide

/-- The started run has the invariant and steps. -/
theorem witness_StepKeepsInvariant : startedState.Inv ∧ ∃ t, step startedState = .next t :=
  ⟨by constructor <;> simp [World.fits, startedState, State.startRun, State.reset, World.reset, World.resize, oneByteArgs,
      RunArgs.legal, RunArgs.inLen, Memory.wf, Seq.isPrologue, State.params, Params.default_legal], _, rfl⟩
/-- A state with the invariant whose next step is refused, for a request of the host. -/
theorem witness_InvariantStatesNeverStop :
    (faultedState.withPort [.run oneByteArgs]).Inv
    ∧ step (faultedState.withPort [.run oneByteArgs]) = .refused .runNotFromIdle :=
  ⟨by constructor <;> simp [World.fits, faultedState, State.withPort, startedState, State.startRun, State.reset, World.reset,
      World.resize, oneByteArgs, RunArgs.legal, RunArgs.inLen, Memory.wf, Seq.isPrologue, State.params,
      Params.default_legal], rfl⟩
theorem witness_TickKeepsRunInvariants :
    let s : State := { drainingState with outBuf := [(0, 0x41)], outCur := 1 }
    s.inRun = true ∧ s.inCur ≤ s.args.inLen ∧ s.outCur ≤ s.args.outCap
      ∧ (∀ i, i < s.outCur → (s.outBuf.read i).isSome = true) ∧ ∀ i, s.outCur ≤ i → s.outBuf.read i = none := by
  refine ⟨by decide, by decide, by decide, by decide, fun i hi => ?_⟩
  have h : ¬ i = 0 := by
    intro h
    subst h
    exact absurd hi (by decide)
  simp [Memory.read, h]
theorem witness_DrainingNeverFeeds : drainingTick.Inv ∧ drainingTick.phase = .draining
    ∧ (∃ t, step drainingTick = .next t) ∧ drainingTick.cst = some ⟨true, true, 0⟩ :=
  ⟨by constructor <;> simp [World.fits, drainingTick, drainingState, startedState, State.startRun, State.reset, World.reset,
      World.resize, oneByteArgs, RunArgs.legal, RunArgs.inLen, Memory.wf, Seq.isPrologue, State.params,
      Params.default_legal, Sample.fits, Params.csOutW, Params.dsLenW], rfl, ⟨_, rfl⟩, rfl⟩
theorem witness_FaultedRunDoesNotResume :
    faultedState.Inv ∧ faultedState.phase = .faulted ∧ ∃ t, step faultedState = .next t :=
  ⟨by constructor <;> simp [World.fits, faultedState, startedState, State.startRun, State.reset, World.reset, World.resize,
      oneByteArgs, RunArgs.legal, RunArgs.inLen, Memory.wf, Seq.isPrologue, State.params, Params.default_legal],
    rfl, _, rfl⟩
/-- The tick ready for `XFER` writes both control registers. -/
theorem witness_ControlWritesAreJustified :
    drainingTick.params.legal = true ∧ drainingTick.seq ≠ .idle ∧ (∃ t, step drainingTick = .next t)
    ∧ accessesOf (stepIn shownEnv drainingTick) = some [.write .dCtrl 1, .write .cCtrl 4] :=
  ⟨by decide, by decide, ⟨_, rfl⟩, by decide⟩
/-- A tick that feeds, and one that transfers. -/
theorem witness_TickReadsBeforeItWrites :
    let e := clockEnv (mockC P0) (mockD P0) 3 1
    let s : State := { startedState with seq := .loopHead, phase := .pump }
    s.params.legal = true
    ∧ (s.tick e).world.trace = [.write .cCtrl 0x20A, .read .dStat 1, .read .cStat 1]
    ∧ ({ s with world := ⟨0, 0, [0x41], [], []⟩ }.tick e).world.trace
      = [.write .dCtrl 0x105, .write .cCtrl 4, .read .dStat 1, .read .cStat 0x106] := by decide
/-- Two equal samples at the greatest count, and a delta across the wrap. -/
theorem witness_DeltaIsModular : Sample.fits P0 ⟨2 ^ 32 - 1, 0⟩ ∧ Sample.fits P0 ⟨0, 2 ^ 32 - 1⟩
    ∧ 2 ^ 32 - 1 < 2 ^ P0.W := by
  simp only [Sample.fits]
  decide
theorem witness_BaselineSample : CountersDeterministic (clockEnv (mockC P0) (mockD P0) 3 1)
    ∧ (startedState.withCounters 5 6).params = startedState.params :=
  ⟨⟨fun _ => 3, fun _ => 1, fun _ _ _ => ⟨rfl, rfl⟩⟩, rfl⟩
/-- The empty region, and a region of one tick. -/
theorem witness_BracketMeasuresItsRegion :
    let e := clockEnv deadUnit deadUnit 3 1
    let b := ((startedState.pcReset e).read e .cycle).read e .instr
    let c := b.tick e
    let new : List Access := [.read .dStat 0, .read .cStat 0]
    (id b).params = b.params ∧ (id b).world.trace = [] ++ b.world.trace
    ∧ (id b).world.cyc = (b.world.cyc + drawSum e.cycleDraw b.world.trace []) % 2 ^ 32
    ∧ (id b).world.ins = (b.world.ins + drawSum e.instrDraw b.world.trace []) % 2 ^ 32
    ∧ c.params = b.params ∧ c.world.trace = new ++ b.world.trace
    ∧ c.world.cyc = (b.world.cyc + drawSum e.cycleDraw b.world.trace new) % 2 ^ 32
    ∧ c.world.ins = (b.world.ins + drawSum e.instrDraw b.world.trace new) % 2 ^ 32 := by decide
theorem witness_CountersDoNotSteer : drainingTick.seq = .decide ∧ (∃ t, step drainingTick = .next t)
    ∧ drainingState.seq = .loopHead ∧ ∃ t, step drainingState = .next t := ⟨rfl, ⟨_, rfl⟩, rfl, _, rfl⟩
theorem witness_CompareLaws :
    (⟨1, 0x42, some 0x43⟩ : Mismatch) ∈ compare [0x41, 0x42] 2 [(0, 0x41), (1, 0x43)]
    ∧ compare [0x41, 0x42] 2 [(0, 0x41), (1, 0x42)] = [] ∧ (compare [0x41, 0x42] 1 [(0, 0x41), (1, 0x42)]).length = 1 := by
  decide
theorem witness_PortIsNotReadDuringRuns : drainingTick.seq ≠ .idle ∧ ∃ t, step drainingTick = .next t :=
  ⟨by decide, _, rfl⟩
theorem witness_LegalLengthsNeverViolate :
    UnitLengthLegal drainingTick.params (clockEnv deadUnit deadUnit 3 1) ∧ drainingTick.inRun = true :=
  ⟨fun _ h => absurd (show (decDst P0 0).outputValid = true from h) (by decide), by decide⟩
theorem witness_FixturesMeetThePremises : P0.legal = true ∧ smallParams.legal = true := by decide
/-- What `Accepts`, `Keeps` and `GivesUp` ask of the identity units is asked somewhere: a unit ready for a word with
`inputValid` alone, and a full one at a word with `outputReady` alone. -/
theorem witness_UnitsHoldHandshake :
    let x := portC P0 (clockEnv (mockC P0) (mockD P0) 3 1)
    x.inputReady [] = true ∧ x.offers 0x20A = some 0x41 ∧ x.takes 0x20A = false ∧ x.ctrl [] 0x20A = [0x41]
    ∧ x.outputValid [0x41] = true ∧ x.shown [0x41] = [0x41] ∧ x.takes 4 = true ∧ x.offers 4 = none
    ∧ x.ctrl [0x41] 4 = [] := by decide

end Sys2Proof.Machine
end

section
/-! The effect of the ten access commands (R56, R90). -/

namespace Sys2Proof.Machine

/-- The access command that reads `r` is one read access, whatever register it is. -/
theorem execIn_readInstr (e : Env) (r : ReadReg) (s : State) :
    execIn e (readInstr r) s = .next (s.read e r) := by cases r <;> rfl

/-- The access command that writes `r` is one write access, whatever register it is. -/
theorem execIn_writeInstr (e : Env) (r : WriteReg) (v : Nat) (s : State) :
    execIn e (writeInstr v r) s = .next (s.write e r v) := by cases r <;> rfl

/-- A word that fits is delivered as it is: nothing of it is cut (R52, R56). -/
theorem World.regWrite_of_lt {p : Params} {v : Nat} (e : Env) (r : WriteReg) (w : World) (hv : v < 2 ^ p.W) :
    w.regWrite p e r v = ((w.tickOver p e).writeEffect e v r).log (.write r v) := by
  simp only [World.regWrite, trunc_of_lt hv]

/-- A read command: the environment moves, the register's word is read and goes to `rdata`, the access has its effect and
is logged. -/
theorem exec_readInstr (r : ReadReg) (s : State) :
    let w := s.world.tickOver s.params Config.env
    let x := w.readWord s.params Config.env r
    exec (readInstr r) s = .next { s with world := (w.readEffect Config.env r).log (.read r x), rdata := x } := by
  rw [← execIn_env, execIn_readInstr]
  rfl

/-- A write command of a word: the environment moves, the word arrives, the access is logged. -/
theorem exec_writeInstr {v : Nat} (r : WriteReg) (s : State) (hv : v < 2 ^ s.params.W) :
    let w := s.world.tickOver s.params Config.env
    exec (writeInstr v r) s = .next { s with world := (w.writeEffect Config.env v r).log (.write r v) } := by
  rw [← execIn_env, execIn_writeInstr, State.write, World.regWrite_of_lt _ _ _ hv]

/-- Settles O1: each of the ten is the read or the write command of its register, whose effect R56 names. -/
theorem accessEffects : Obligations.AccessEffects := by
  unfold Obligations.AccessEffects
  intro s v W w h c d r hv
  exact ⟨exec_writeInstr .cCtrl s hv, exec_writeInstr .dCtrl s hv, exec_readInstr .cStat s, exec_readInstr .dStat s,
    exec_readInstr .cRst s, exec_readInstr .dRst s, exec_readInstr .cycle s, exec_writeInstr .cycle s hv,
    exec_readInstr .instr s, exec_writeInstr .instr s hv⟩

end Sys2Proof.Machine
end

section
/-! The short forms of the control words (R96): the word each record is, the record each word is decoded to, and the one
register write each form is. -/

namespace Sys2Proof

/-! ### A control record encoded and decoded again -/

/-- Only a payload wider than its field changes, cut to the field's width (R111, R113). -/
theorem decCctl_encCctl {p : Params} (h : p.legal = true) (f : Cctl) :
    decCctl p (encCctl p f) = { f with inputBits := f.inputBits % 2 ^ p.ccInW } := by
  obtain ⟨stop, valid, ready, bits⟩ := f
  have hs := stop.toNat_lt
  have hv := valid.toNat_lt
  have hr := ready.toNat_lt
  rw [decCctl_eq, encCctl_eq h]
  dsimp only
  generalize hx : bits % 2 ^ p.ccInW = x
  generalize hw : stop.toNat + 2 * valid.toNat + 4 * ready.toNat + 8 * x = w
  have hstop : w % 2 = stop.toNat % 2 := by omega
  have hvalid : w / 2 % 2 = valid.toNat % 2 := by omega
  have hready : w / 4 % 2 = ready.toNat % 2 := by omega
  have hbits : w / 8 = x := by omega
  rw [hstop, hvalid, hready, hbits, ← hx, Nat.mod_mod]
  simp only [boolToNat_mod]

/-- Only a payload wider than its field changes, cut to the field's width (R111, R115). -/
theorem decDctl_encDctl {p : Params} (h : p.legal = true) (f : Dctl) :
    decDctl p (encDctl p f) = { f with inputBits := f.inputBits % 2 ^ p.dcInW } := by
  obtain ⟨valid, ready, bits⟩ := f
  have hv := valid.toNat_lt
  have hr := ready.toNat_lt
  rw [decDctl_eq, encDctl_eq h]
  dsimp only
  generalize hx : bits % 2 ^ p.dcInW = x
  generalize hw : valid.toNat + 2 * ready.toNat + 4 * x = w
  have hvalid : w % 2 = valid.toNat % 2 := by omega
  have hready : w / 2 % 2 = ready.toNat % 2 := by omega
  have hbits : w / 4 = x := by omega
  rw [hvalid, hready, hbits, ← hx, Nat.mod_mod]
  simp only [boolToNat_mod]

/-! ### The words of the short forms -/

/-- A byte fits its field, which has at least 8 bits (R8, R86). -/
theorem byte_mod_ccInW {p : Params} (h : p.legal = true) (b : Byte) : b.toNat % 2 ^ p.ccInW = b.toNat := by
  obtain ⟨-, hcc, -⟩ := Params.legal_bounds h
  exact Nat.mod_eq_of_lt (Nat.lt_of_lt_of_le b.isLt (Nat.pow_le_pow_right (by decide) hcc))

theorem encCctl_feedRecord {p : Params} (h : p.legal = true) (b : Byte) :
    encCctl p (feedRecord b) = (b.toNat <<< 3) + 2 := by
  simp only [encCctl_eq h, feedRecord, byte_mod_ccInW h, Bool.toNat_true, Bool.toNat_false, Nat.shiftLeft_eq]
  omega

theorem encCctl_ackRecordC {p : Params} (h : p.legal = true) : encCctl p ackRecordC = 0x00000004 := by
  simp [encCctl_eq h, ackRecordC]

theorem encDctl_inputRecord {p : Params} (h : p.legal = true) (x : Nat) :
    encDctl p (inputRecord x) = ((x % 2 ^ p.dcInW) <<< 2) + 1 := by
  simp only [encDctl_eq h, inputRecord, Bool.toNat_true, Bool.toNat_false, Nat.shiftLeft_eq]
  omega

theorem encDctl_ackRecordD {p : Params} (h : p.legal = true) : encDctl p ackRecordD = 0x00000002 := by
  simp [encDctl_eq h, ackRecordD]

/-! ### The records of those words -/

theorem decCctl_feedWord {p : Params} (h : p.legal = true) (b : Byte) :
    decCctl p ((b.toNat <<< 3) + 2) = ⟨false, true, false, b.toNat⟩ := by
  rw [← encCctl_feedRecord h, decCctl_encCctl h, feedRecord, byte_mod_ccInW h]

theorem decCctl_ackWord {p : Params} (h : p.legal = true) : decCctl p 0x00000004 = ⟨false, false, true, 0⟩ := by
  rw [← encCctl_ackRecordC h, decCctl_encCctl h, ackRecordC, Nat.zero_mod]

theorem decDctl_inputWord {p : Params} (h : p.legal = true) (x : Nat) :
    decDctl p (((x % 2 ^ p.dcInW) <<< 2) + 1) = ⟨true, false, x % 2 ^ p.dcInW⟩ := by
  rw [← encDctl_inputRecord h, decDctl_encDctl h, inputRecord]

theorem decDctl_ackWord {p : Params} (h : p.legal = true) : decDctl p 0x00000002 = ⟨false, true, 0⟩ := by
  rw [← encDctl_ackRecordD h, decDctl_encDctl h, ackRecordD, Nat.zero_mod]

end Sys2Proof

namespace Sys2Proof.Machine

/-! ### The short forms as writes -/

/-- A form of the Compressor whose record is the word `v` is the write of `v` to its control register (R96, R131). -/
theorem exec_cWriteInputs {i : Instr} {f : Cctl} {s : State} {v : Nat}
    (hi : exec i s = .next (s.cWriteInputs Config.env f)) (hv : encCctl s.params f = v) :
    let w := s.world.tickOver s.params Config.env
    exec i s = .next { s with world := { w with
      unitC := Config.compressorOnCtrl w.unitC v, trace := .write .cCtrl v :: s.world.trace } } := by
  rw [hi, State.cWriteInputs, World.cWriteInputs_eq, hv]
  rfl

/-- A form of the Decompressor whose record is the word `v` is the write of `v` to its control register (R96, R132). -/
theorem exec_dWriteInputs {i : Instr} {f : Dctl} {s : State} {v : Nat}
    (hi : exec i s = .next (s.dWriteInputs Config.env f)) (hv : encDctl s.params f = v) :
    let w := s.world.tickOver s.params Config.env
    exec i s = .next { s with world := { w with
      unitD := Config.decompressorOnCtrl w.unitD v, trace := .write .dCtrl v :: s.world.trace } } := by
  rw [hi, State.dWriteInputs, World.dWriteInputs_eq, hv]
  rfl

/-- Settles O9: each form is the write of its record, whose word R96 gives. -/
theorem shortFormsAreOneWrite : Obligations.ShortFormsAreOneWrite := by
  unfold Obligations.ShortFormsAreOneWrite
  intro s p h
  refine ⟨decCctl_feedWord h, decCctl_ackWord h, decDctl_inputWord h, decDctl_ackWord h,
    fun b => ?feed, ?ackC, fun x => ?input, ?ackD⟩
  case feed => exact exec_cWriteInputs rfl (encCctl_feedRecord h b)
  case ackC => exact exec_cWriteInputs rfl (encCctl_ackRecordC h)
  case input => exact exec_dWriteInputs rfl (encDctl_inputRecord h x)
  case ackD => exact exec_dWriteInputs rfl (encDctl_ackRecordD h)

end Sys2Proof.Machine
end

section
/-! The round-trip laws of the four layouts (R122): a record encoded and decoded again, a word decoded and encoded again. -/

namespace Sys2Proof

/-! ### The pieces of a word -/

theorem toNat_decide_mod_two (n : Nat) : (decide (n % 2 = 1)).toNat = n % 2 := by
  rcases Nat.mod_two_eq_zero_or_one n with h | h <;> simp [h]

/-- The two flags at bits 0 and 1 and whatever stands above them are read off the word they make (R82 to R84). -/
theorem two_flags_read (a b : Bool) (x : Nat) :
    decide ((a.toNat + 2 * b.toNat + 4 * x) % 2 = 1) = a
    ∧ decide ((a.toNat + 2 * b.toNat + 4 * x) / 2 % 2 = 1) = b
    ∧ (a.toNat + 2 * b.toNat + 4 * x) / 4 = x := by
  have ha := a.toNat_lt
  have hb := b.toNat_lt
  generalize hw : a.toNat + 2 * b.toNat + 4 * x = w
  have hfst : w % 2 = a.toNat % 2 := by omega
  have hsnd : w / 2 % 2 = b.toNat % 2 := by omega
  exact ⟨hfst ▸ boolToNat_mod a, hsnd ▸ boolToNat_mod b, by omega⟩

/-- Bits 0 and 1 and the `n` bits above them are the low `2 + n` bits of the word. -/
theorem two_flags_and_field (w n : Nat) :
    w % 2 + 2 * (w / 2 % 2) + 4 * (w / 4 % 2 ^ n) = w % 2 ^ (2 + n) := by
  have hpow : 2 ^ (2 + n) = 4 * 2 ^ n := Nat.pow_add ..
  rw [hpow, Nat.mod_mul]
  omega

/-- Bits 0 to 2 and the `n` bits above them are the low `3 + n` bits of the word. -/
theorem three_flags_and_field (w n : Nat) :
    w % 2 + 2 * (w / 2 % 2) + 4 * (w / 4 % 2) + 8 * (w / 8 % 2 ^ n) = w % 2 ^ (3 + n) := by
  have hpow : 2 ^ (3 + n) = 8 * 2 ^ n := Nat.pow_add ..
  rw [hpow, Nat.mod_mul]
  omega

/-! ### A status record encoded and decoded again -/

/-- Only a payload wider than its field changes, cut to the field's width (R111, R117). -/
theorem decCst_encCst {p : Params} (h : p.legal = true) (f : Cst) :
    decCst p (encCst p f) = { f with outputBits := f.outputBits % 2 ^ (p.W - 2) } := by
  obtain ⟨hready, hvalid, hbits⟩ := two_flags_read f.inputReady f.outputValid (f.outputBits % 2 ^ (p.W - 2))
  rw [decCst_eq h, encCst_eq h, hready, hvalid, hbits, Nat.mod_mod]

/-- Only a number wider than its field changes, cut to the field's width (R111, R119). -/
theorem decDst_encDst {p : Params} (h : p.legal = true) (f : Dst) :
    decDst p (encDst p f) = { f with
      outputBits := f.outputBits % 2 ^ 16, dataOutLength := f.dataOutLength % 2 ^ (p.W - 18) } := by
  have hx := Nat.mod_lt f.outputBits (Nat.two_pow_pos 16)
  rw [decDst_eq h, encDst_eq h]
  generalize f.outputBits % 2 ^ 16 = x at hx ⊢
  generalize hy : f.dataOutLength % 2 ^ (p.W - 18) = y
  obtain ⟨hready, hvalid, habove⟩ := two_flags_read f.inputReady f.outputValid (x + 2 ^ 16 * y)
  have hword : f.inputReady.toNat + 2 * f.outputValid.toNat + 4 * x + 2 ^ 18 * y
      = f.inputReady.toNat + 2 * f.outputValid.toNat + 4 * (x + 2 ^ 16 * y) := by omega
  rw [hword, hready, hvalid, habove]
  generalize f.inputReady.toNat + 2 * f.outputValid.toNat + 4 * (x + 2 ^ 16 * y) = w at habove
  have hbits : (x + 2 ^ 16 * y) % 2 ^ 16 = x := by omega
  have hlen : w / 2 ^ 18 = y := by omega
  rw [hbits, hlen, ← hy, Nat.mod_mod]

/-! ### A control word's record fits -/

theorem decCctl_fits (p : Params) (w : Nat) : fitsCctl p (decCctl p w) = true := by
  rw [fitsCctl_iff, decCctl_eq]
  exact Nat.mod_lt _ (Nat.two_pow_pos _)

theorem decDctl_fits (p : Params) (w : Nat) : fitsDctl p (decDctl p w) = true := by
  rw [fitsDctl_iff, decDctl_eq]
  exact Nat.mod_lt _ (Nat.two_pow_pos _)

/-! ### A word decoded and encoded again -/

/-- The reserved bits, those above the payload, are cleared (R81, R122). -/
theorem encCctl_decCctl {p : Params} (h : p.legal = true) (w : Nat) :
    encCctl p (decCctl p w) = w % 2 ^ (3 + p.ccInW) := by
  rw [encCctl_eq h, decCctl_eq]
  simp only [toNat_decide_mod_two, Nat.mod_mod, three_flags_and_field]

/-- The reserved bits, those above the payload, are cleared (R82, R122). -/
theorem encDctl_decDctl {p : Params} (h : p.legal = true) (w : Nat) :
    encDctl p (decDctl p w) = w % 2 ^ (2 + p.dcInW) := by
  rw [encDctl_eq h, decDctl_eq]
  simp only [toNat_decide_mod_two, Nat.mod_mod, two_flags_and_field]

/-- A compressor status word has no reserved bits (R83, R122). -/
theorem encCst_decCst {p : Params} (h : p.legal = true) (w : Nat) : encCst p (decCst p w) = w % 2 ^ p.W := by
  obtain ⟨hW, -⟩ := Params.legal_bounds h
  rw [encCst_eq h, decCst_eq h]
  simp only [toNat_decide_mod_two, Nat.mod_mod, two_flags_and_field]
  rw [Nat.add_sub_cancel' (by omega)]

/-- A decompressor status word has no reserved bits: its length field begins where `outputBits` ends (R84, R122). -/
theorem encDst_decDst {p : Params} (h : p.legal = true) (w : Nat) : encDst p (decDst p w) = w % 2 ^ p.W := by
  obtain ⟨hW, -⟩ := Params.legal_bounds h
  have hsplit : w % 2 ^ p.W = w % 2 ^ 18 + 2 ^ 18 * (w / 2 ^ 18 % 2 ^ (p.W - 18)) := by
    rw [two_pow_split (show 18 ≤ p.W by omega), Nat.mod_mul]
  rw [encDst_eq h, decDst_eq h, hsplit]
  simp only [toNat_decide_mod_two, Nat.mod_mod, two_flags_and_field]

/-! ### The laws -/

/-- Settles O5: `DEC` after `ENC` cuts each payload to its field, `ENC` after `DEC` cuts the word to the layout's bits; on a
fitting record and a word without reserved bits neither cuts anything. -/
theorem codecRoundTripLaws : Obligations.CodecRoundTripLaws := by
  unfold Obligations.CodecRoundTripLaws
  intro p h
  obtain ⟨hW, -⟩ := Params.legal_bounds h
  refine ⟨fun f hf => ?fitCctl, fun f hf => ?fitDctl, fun f hf => ?fitCst, fun f hf => ?fitDst,
    fun f => ⟨encCctl_lt p f, decCctl_encCctl h f⟩, fun f => ⟨encDctl_lt p f, decDctl_encDctl h f⟩,
    fun f => ⟨encCst_lt p f, decCst_encCst h f⟩, fun f => ⟨encDst_lt p f, decDst_encDst h f⟩,
    fun w hw => ⟨⟨decCctl_fits p w, decDctl_fits p w, decCst_fits h w, decDst_fits h w⟩,
      encCctl_decCctl h w, encDctl_decDctl h w, fun hfull => ?wordCctl, fun hfull => ?wordDctl, ?wordCst, ?wordDst⟩⟩
  case fitCctl => rw [decCctl_encCctl h, Nat.mod_eq_of_lt ((fitsCctl_iff p f).mp hf)]
  case fitDctl => rw [decDctl_encDctl h, Nat.mod_eq_of_lt ((fitsDctl_iff p f).mp hf)]
  case fitCst =>
    rw [fitsCst_iff, Params.csOutW] at hf
    rw [decCst_encCst h, Nat.mod_eq_of_lt hf]
  case fitDst =>
    rw [fitsDst_iff, Params.dsLenW] at hf
    obtain ⟨hbits, hlen⟩ := hf
    rw [decDst_encDst h, Nat.mod_eq_of_lt hbits, Nat.mod_eq_of_lt hlen]
  case wordCctl => rw [encCctl_decCctl h, hfull, Nat.add_sub_cancel' (by omega), Nat.mod_eq_of_lt hw]
  case wordDctl => rw [encDctl_decDctl h, hfull, Nat.add_sub_cancel' (by omega), Nat.mod_eq_of_lt hw]
  case wordCst => rw [encCst_decCst h, Nat.mod_eq_of_lt hw]
  case wordDst => rw [encDst_decDst h, Nat.mod_eq_of_lt hw]

end Sys2Proof
end

section
/-! The bytes inside `DST.outputBits`: what `UNPACK` reads (R120), and that it undoes `PACK` (R121). -/

namespace Sys2Proof.Machine

theorem unpack_zero (o : Nat) : unpack o 0 = [] := rfl

theorem unpack_one (o : Nat) : unpack o 1 = [BitVec.ofNat 8 (o % 256)] := by
  simp [unpack, fieldOf_eq]

theorem unpack_two (o : Nat) : unpack o 2 = [BitVec.ofNat 8 (o / 256 % 256), BitVec.ofNat 8 (o % 256)] := by
  simp [unpack, fieldOf_eq]

/-- Settles O7: the two fields `UNPACK` reads are the low byte and the byte above it. -/
theorem unpackBytes : Obligations.UnpackBytes :=
  fun o => ⟨unpack_zero o, unpack_one o, unpack_two o⟩

theorem pack_pair (a b : Byte) : pack [a, b] = some (a.toNat * 256 + b.toNat, 2) := by
  rw [pack, Nat.shiftLeft_eq]

theorem pack_isSome_iff : ∀ l : List Byte, (pack l).isSome = true ↔ l.length ≤ 2
  | [] | [_] | [_, _] => by simp [pack]
  | _ :: _ :: _ :: _ => by simp [pack]

theorem unpack_byte (a : Byte) : unpack a.toNat 1 = [a] := by
  rw [unpack_one, Nat.mod_eq_of_lt a.isLt, BitVec.ofNat_toNat, BitVec.setWidth_eq]

/-- The first byte of a pair stands above the second, which is below 256. -/
theorem unpack_pair (a b : Byte) : unpack (a.toNat * 256 + b.toNat) 2 = [a, b] := by
  have ha := a.isLt
  have hb := b.isLt
  have hhigh : (a.toNat * 256 + b.toNat) / 256 % 256 = a.toNat := by omega
  have hlow : (a.toNat * 256 + b.toNat) % 256 = b.toNat := by omega
  rw [unpack_two, hhigh, hlow]
  simp only [BitVec.ofNat_toNat, BitVec.setWidth_eq]

/-- `PACK` gives a field and a length only for the lists `UNPACK` can give back (R121). -/
theorem unpack_of_pack {l : List Byte} {o n : Nat} (h : pack l = some (o, n)) : unpack o n = l := by
  match l with
  | [] => cases h; exact unpack_zero 0
  | [a] => cases h; exact unpack_byte a
  | [a, b] =>
    rw [pack_pair] at h
    cases h
    exact unpack_pair a b
  | _ :: _ :: _ :: _ => cases h

/-- Settles O8: a pair packs as one number to base 256, whose two digits `UNPACK` reads. -/
theorem unpackUndoesPack : Obligations.UnpackUndoesPack :=
  ⟨rfl, fun _ => rfl, pack_pair, pack_isSome_iff, fun _ _ _ => unpack_of_pack⟩

end Sys2Proof.Machine
end

section
/-! The rows of the tick decode table as outcomes: the outcome a vector selects (R91, R150), and what `FEED`, `XFER`,
`DRAIN` of too many bytes and `IDLE` do (R152 to R156). -/

namespace Sys2Proof.Machine

/-! ### The outcome a vector selects -/

/-- A tick row's frame holds the vector that is decoded to it (R91). -/
theorem decodeTick_of_encode {p : Params} {i : Instr} {t : BitVec 5} (h : encode p i = .tick t) : decodeTick t = i := by
  cases i <;> cases h <;> rw [decodeTick_tickBits]
  case tickFeed => rfl
  case tickXferA cIR dOV => cases cIR <;> rfl
  case tickXferB => rfl
  case tickDrainA cIR dIR => cases cIR <;> cases dIR <;> rfl
  case tickDrainB cIR => cases cIR <;> rfl
  case tickDrainC dIR => cases dIR <;> rfl
  case tickDrainD => rfl
  case tickIdleA cIR dIR => cases cIR <;> cases dIR <;> rfl
  case tickIdleB cIR => cases cIR <;> rfl
  case tickIdleC dIR => cases dIR <;> rfl
  case tickIdleD => rfl

/-- The row of five flags stands for the first outcome whose flags hold (R91). -/
theorem tickKind_decodeTick_tickBits : ∀ more cIR cOV dIR dOV : Bool,
    tickKind (decodeTick (tickBits more cIR cOV dIR dOV)) = some (
      if more && cIR then .feed else if cOV && dIR then .xfer else if dOV then .drain else .idle) := by decide

/-- The outcome that the two status records of a tick select (R91, R150). -/
def State.selects (s : State) (c : Cst) (d : Dst) (k : TickKind) : Prop :=
  tickKind (decodeTick (s.vectorOf c d)) = some k

/-- The outcome selected, the flags that select it, and what it does. -/
theorem State.outcome_selected (e : Env) (c : Cst) (d : Dst) (s : State) :
    (s.selects c d .feed ∧ c.inputReady = true ∧ s.more = true ∧ s.outcome e c d = s.feed e) ∨
    (s.selects c d .xfer ∧ c.outputValid = true ∧ d.inputReady = true ∧ s.outcome e c d = s.xfer e c) ∨
    (s.selects c d .drain ∧ d.outputValid = true ∧ s.outcome e c d = s.drain e d) ∨
    (s.selects c d .idle ∧ s.outcome e c d = s) := by
  simp only [State.selects, State.vectorOf, tickKind_decodeTick_tickBits, Bool.and_comm s.more]
  obtain ⟨hready, hmore, ho⟩ | ⟨hfeed, hvalid, hready, ho⟩ | ⟨hfeed, hxfer, hvalid, ho⟩ |
    ⟨hfeed, hxfer, hvalid, ho⟩ := s.outcome_cases e c d
  · exact .inl ⟨by simp [hready, hmore], hready, hmore, ho⟩
  · exact .inr (.inl ⟨by simp [hfeed, hvalid, hready], hvalid, hready, ho⟩)
  · exact .inr (.inr (.inl ⟨by simp [hfeed, hxfer, hvalid], hvalid, ho⟩))
  · exact .inr (.inr (.inr ⟨by simp [hfeed, hxfer, hvalid], ho⟩))

/-- The outcome of a kind (R152 to R155). -/
def State.perform (e : Env) (c : Cst) (d : Dst) (s : State) : TickKind → State
  | .feed => s.feed e
  | .xfer => s.xfer e c
  | .drain => s.drain e d
  | .idle => s

/-- The outcome done is the one selected; it feeds only with a byte left. -/
theorem State.outcome_of_selects {s : State} {c : Cst} {d : Dst} {k : TickKind} (e : Env) (h : s.selects c d k) :
    s.outcome e c d = s.perform e c d k ∧ (k = .feed → s.more = true) := by
  have unique : ∀ k', s.selects c d k' → k' = k := fun _ h' => Option.some.inj (h'.symm.trans h)
  obtain ⟨h', -, hm, ho⟩ | ⟨h', -, -, ho⟩ | ⟨h', -, ho⟩ | ⟨h', ho⟩ := s.outcome_selected e c d <;>
    obtain rfl := unique _ h'
  case inl => exact ⟨ho, fun _ => hm⟩
  all_goals exact ⟨ho, nofun⟩

/-- A row whose vector the tick in progress has does the outcome of the tick's two status records, which select what the
row stands for. -/
theorem exec_tickRow {p : Params} {i : Instr} {t : BitVec 5} {s : State} {k : TickKind} (hi : encode p i = .tick t)
    (hr : s.tickReady t = true) (hk : tickKind i = some k) :
    ∃ c d, s.cst = some c ∧ s.dst = some d ∧ s.fault = .none ∧ s.selects c d k
      ∧ exec i s = .next (s.perform Config.env c d k).endTick := by
  obtain ⟨hrun, c, d, hc, hd, rfl⟩ := (s.tickReady_iff t).1 hr
  obtain rfl := decodeTick_of_encode hi
  refine ⟨c, d, hc, hd, hrun.2, hk, ?_⟩
  obtain ⟨ho, -⟩ := State.outcome_of_selects Config.env hk
  rw [← execIn_env, execIn_decodeTick _ (s.inRun_iff.2 hrun) hc hd, ho]

/-! ### The pieces of an outcome -/

theorem State.drain_of_long (e : Env) {d : Dst} (s : State) (h : dsOutBytes < d.dataOutLength) :
    s.drain e d = (s.dWriteInputs e ackRecordD).raise .lengthViolation (.length d.dataOutLength) := by
  simp only [State.drain, if_pos h]

theorem State.drain_of_full (e : Env) {d : Dst} {s : State} (h : d.dataOutLength ≤ dsOutBytes)
    (hroom : s.args.outCap < s.outCur + d.dataOutLength) :
    s.drain e d = (s.dWriteInputs e ackRecordD).raise .outputOverflow (.overflow s.outCur d.dataOutLength) := by
  simp only [State.drain, if_neg (Nat.not_lt.2 h), if_pos hroom]

theorem State.drain_of_room (e : Env) {d : Dst} {s : State} (h : d.dataOutLength ≤ dsOutBytes)
    (hroom : s.outCur + d.dataOutLength ≤ s.args.outCap) :
    s.drain e d = { s.dWriteInputs e ackRecordD with
      outBuf := s.outBuf.writeBytes s.outCur (unpack d.outputBits d.dataOutLength)
      outCur := s.outCur + d.dataOutLength } := by
  simp only [State.drain, if_neg (Nat.not_lt.2 h), if_neg (Nat.not_lt.2 hroom)]

/-- `FEED` raises nothing (R152). -/
theorem State.feed_fault (e : Env) (s : State) : (s.feed e).fault = s.fault := by
  simp only [State.feed]
  split <;> rfl

/-! ### What the rows do -/

/-- Settles O14: the row selects `FEED`, whose one write is `C.FEED` of the next byte. -/
theorem feedRowFeeds : Obligations.FeedRowFeeds := by
  unfold Obligations.FeedRowFeeds
  intro cOV dIR dOV s hp hr
  obtain ⟨c, d, -, -, hf, hk, hx⟩ := exec_tickRow (p := s.params) (i := .tickFeed cOV dIR dOV) rfl hr rfl
  obtain ⟨-, hmore⟩ := State.outcome_of_selects Config.env hk
  obtain ⟨b, hb⟩ := State.nextByte_isSome (hmore rfl)
  refine ⟨b, hb, ?_⟩
  rw [hx, State.perform, State.endTick_of_none ((s.feed_fault _).trans hf), State.feed_of_byte _ hb,
    State.cWriteInputs, World.cWriteInputs_eq, encCctl_feedRecord hp]
  rfl

/-- Settles O15: both rows select `XFER`, whose two writes are `C.ACK` and then `D.INPUT` of the symbol read. -/
theorem xferRowsTransfer : Obligations.XferRowsTransfer := by
  unfold Obligations.XferRowsTransfer
  intro cIR dOV i hi t s c p hp ht hr hc
  have hkind : tickKind i = some .xfer := by fin_cases hi <;> rfl
  obtain ⟨c', d, hc', -, hf, -, hx⟩ := exec_tickRow ht hr hkind
  cases hc.symm.trans hc'
  have hnone : (s.xfer Config.env c).fault = .none := hf
  rw [hx, State.perform, State.endTick_of_none hnone, State.xfer, State.dWriteInputs, World.dWriteInputs_eq,
    State.cWriteInputs, World.cWriteInputs_eq, encCctl_ackRecordC hp, encDctl_inputRecord hp]
  rfl

/-- Settles O17: the four rows select `DRAIN`, which acknowledges and then raises the fault. -/
theorem drainLengthViolation : Obligations.DrainLengthViolation := by
  unfold Obligations.DrainLengthViolation
  intro cIR dIR i hi t s d hp ht hr hd hlen
  have hkind : tickKind i = some .drain := by fin_cases hi <;> rfl
  obtain ⟨c, d', -, hd', -, -, hx⟩ := exec_tickRow ht hr hkind
  cases hd.symm.trans hd'
  rw [hx, State.perform, State.drain_of_long _ s hlen, State.endTick_raise _ _ (by decide), State.dWriteInputs,
    World.dWriteInputs_eq, encDctl_ackRecordD hp]
  rfl

/-- Settles O19: the four rows select `IDLE`, which does nothing before the tick ends. -/
theorem idleRowsOnlyCount : Obligations.IdleRowsOnlyCount := by
  unfold Obligations.IdleRowsOnlyCount
  intro cIR dIR i hi t s ht hr
  have hkind : tickKind i = some .idle := by fin_cases hi <;> rfl
  obtain ⟨c, d, -, -, hf, -, hx⟩ := exec_tickRow ht hr hkind
  rw [hx, State.perform, State.endTick_of_none hf]

end Sys2Proof.Machine
end

section
/-! The three steps of a tick: two status reads, then the outcome (R150, R167). -/

namespace Sys2Proof.Machine

/-! ### Steps inside a run -/

/-- During a run the port stays as it is (R66). -/
theorem State.issued_of_ne_idle {s : State} (hq : s.seq ≠ .idle) : s.issued = s := if_neg hq

/-- A step of a run that fetches a read is that read, whatever register it is. -/
theorem stepIn_read (e : Env) {s : State} {r : ReadReg} (hn : s.nextOp = .instr (readInstr r)) (hq : s.seq ≠ .idle) :
    stepIn e s = .next (s.afterOp (s.read e r)) :=
  stepWith_instr hn (by rw [s.issued_of_ne_idle hq, execIn_readInstr])

/-- A step of a run that fetches a write is that write, whatever register it is. -/
theorem stepIn_write (e : Env) {s : State} {r : WriteReg} {v : Nat} (hn : s.nextOp = .instr (writeInstr v r))
    (hq : s.seq ≠ .idle) : stepIn e s = .next (s.afterOp (s.write e r v)) :=
  stepWith_instr hn (by rw [s.issued_of_ne_idle hq, execIn_writeInstr])

/-- The step after both status reads runs the row of their vector, and the sequencer adds nothing to it. -/
theorem stepWith_decide {ex : Instr → State → Result} {s : State} {c : Cst} {d : Dst} (hq : s.seq = .decide)
    (hc : s.cst = some c) (hd : s.dst = some d) : stepWith ex s = ex (decodeTick (s.vectorOf c d)) s := by
  have hnext : s.nextOp = .instr (decodeTick (s.vectorOf c d)) := by
    simp only [State.nextOp, hq, State.fetchOutcome, State.tickVector, hc, hd, fetchFrame, decode]
  have hissued : s.issued = s := s.issued_of_ne_idle (by simp [hq])
  have hafter : ∀ t, s.afterOp t = t := fun t => by simp only [State.afterOp, hq]
  simp only [stepWith, hnext, hissued, hafter]
  cases ex (decodeTick (s.vectorOf c d)) s <;> rfl

/-- The step after both status reads does the outcome the two records select and ends the tick, in any environment. -/
theorem stepIn_decide (e : Env) {s : State} {c : Cst} {d : Dst} (hq : s.seq = .decide) (hr : s.inRun = true)
    (hc : s.cst = some c) (hd : s.dst = some d) : stepIn e s = .next (s.outcome e c d).endTick := by
  rw [stepIn, stepWith_decide hq hc hd, execIn_decodeTick e hr hc hd]

/-! ### Feeding wins -/

/-- With a byte left and `inputReady` the vector is one of the row `TICK.FEED` (R91). -/
theorem decodeTick_vectorOf_feed {s : State} {c : Cst} (d : Dst) (hm : s.more = true) (hr : c.inputReady = true) :
    decodeTick (s.vectorOf c d) = .tickFeed c.outputValid d.inputReady d.outputValid := by
  rw [State.vectorOf, decodeTick_tickBits, hm, hr]
  rfl

/-- Settles O22: the row fetched is `TICK.FEED`, whose outcome is one write to the Compressor and a move of `in_cur`. -/
theorem feedingWins : Obligations.FeedingWins := by
  unfold Obligations.FeedingWins
  intro s c d hq hr hc hd hready hleft
  have hmore : s.more = true := s.more_iff.2 hleft
  have hrow := decodeTick_vectorOf_feed d hmore hready
  have hstep : step s = exec (.tickFeed c.outputValid d.inputReady d.outputValid) s := by
    rw [← hrow]
    exact stepWith_decide hq hc hd
  have hselects : s.selects c d .feed := by rw [State.selects, hrow, tickKind]
  obtain ⟨ho, -⟩ := State.outcome_of_selects Config.env hselects
  obtain ⟨b, hb⟩ := State.nextByte_isSome hmore
  have hexec := execIn_decodeTick Config.env hr hc hd
  rw [execIn_env, hrow, ho, State.perform, State.feed_of_byte _ hb,
    State.endTick_of_none (s := { s.cWriteInputs _ _ with inCur := _ }) (s.inRun_iff.1 hr).2] at hexec
  refine ⟨_, hstep.trans hexec, hstep, rfl, ?_, rfl, rfl, fun _ => rfl⟩
  show (s.world.cWriteInputs s.params Config.env (feedRecord b)).unitD = _
  rw [World.cWriteInputs_eq]
  rfl

/-! ### Three steps are one tick -/

/-- From the head of a loop that goes on within the budget, a step is the tick's first read (R150, R162). -/
theorem stepIn_loopHead (e : Env) {s : State} (hq : s.seq = .loopHead) (hr : s.inRun = true) (hg : s.loopGoes = true)
    (hb : s.budgetSpent = false) : stepIn e s = .next { s.read e .cStat with
      cst := some (decCst s.params (s.read e .cStat).rdata), seq := .readD } := by
  obtain ⟨hp, hf⟩ := s.inRun_iff.1 hr
  have hnext : s.nextOp = .instr (readInstr .cStat) := by
    simp only [State.nextOp, hq, State.atLoopHead_eq s hp, hf, hg, State.beginTick, hb]
    rfl
  rw [stepIn_read e hnext (by simp [hq])]
  simp only [State.afterOp, hq]
  rfl

/-- After a tick's first read the next step is its second (R150). -/
theorem stepIn_readD (e : Env) {s : State} (hq : s.seq = .readD) : stepIn e s = .next { s.read e .dStat with
    dst := some (decDst s.params (s.read e .dStat).rdata), seq := .decide } := by
  have hnext : s.nextOp = .instr (readInstr .dStat) := by simp only [State.nextOp, hq, readInstr]
  rw [stepIn_read e hnext (by simp [hq])]
  simp only [State.afterOp, hq]
  rfl

/-- The state as it stands before the outcome of a tick, with the status records of the tick's reads. -/
def State.atDecide (c : Cst) (d : Dst) (s : State) : State := { s with cst := some c, dst := some d, seq := .decide }

theorem State.endTick_atDecide (c : Cst) (d : Dst) {s : State} (hf : s.fault = .none) :
    (s.atDecide c d).endTick = s.endTick := by
  rw [State.endTick_of_none hf, State.endTick_of_none (s := s.atDecide c d) hf]
  rfl

theorem State.feed_atDecide (e : Env) (c : Cst) (d : Dst) (s : State) :
    (s.atDecide c d).feed e = (s.feed e).atDecide c d := by
  cases hb : s.nextByte with
  | none => simp only [State.feed, hb, show (s.atDecide c d).nextByte = none from hb]
  | some b =>
    rw [State.feed_of_byte e hb, State.feed_of_byte e (s := s.atDecide c d) hb]
    rfl

theorem State.drain_atDecide (e : Env) (c : Cst) (d : Dst) {s : State} (hf : s.fault = .none) :
    ((s.atDecide c d).drain e d).endTick = (s.drain e d).endTick := by
  obtain ⟨hlen, h⟩ | ⟨hlen, hroom, h⟩ | ⟨hlen, hroom, h⟩ := s.drain_cases e d
  · rw [h, State.drain_of_long e (s.atDecide c d) hlen]
    rfl
  · rw [h, State.drain_of_full e (s := s.atDecide c d) hlen hroom]
    rfl
  · have hcomm : (s.atDecide c d).drain e d = (s.drain e d).atDecide c d := by
      rw [h, State.drain_of_room e (s := s.atDecide c d) hlen hroom]
      rfl
    exact (congrArg State.endTick hcomm).trans (State.endTick_atDecide c d ((congrArg State.fault h).trans hf))

/-- What an outcome does and how the tick ends do not depend on where the records and the position stood before. -/
theorem State.outcome_atDecide (e : Env) (c : Cst) (d : Dst) {s : State} (hf : s.fault = .none) :
    ((s.atDecide c d).outcome e c d).endTick = (s.outcome e c d).endTick := by
  obtain ⟨k, hk⟩ : ∃ k, s.selects c d k := by
    obtain ⟨h, -⟩ | ⟨h, -⟩ | ⟨h, -⟩ | ⟨h, -⟩ := s.outcome_selected e c d <;> exact ⟨_, h⟩
  have hk' : (s.atDecide c d).selects c d k := hk
  rw [(State.outcome_of_selects e hk).1, (State.outcome_of_selects e hk').1]
  cases k with
  | feed => exact
      (congrArg State.endTick (s.feed_atDecide e c d)).trans (State.endTick_atDecide c d ((s.feed_fault e).trans hf))
  | xfer => exact State.endTick_atDecide c d (s := s.xfer e c) hf
  | drain => exact State.drain_atDecide e c d hf
  | idle => exact State.endTick_atDecide c d hf

/-- Settles O23: the two status reads lead to the outcome of their records. -/
theorem threeStepsAreOneTick : Obligations.ThreeStepsAreOneTick := by
  unfold Obligations.ThreeStepsAreOneTick
  intro e s hq hr hg hb
  let a := s.read e .cStat
  let c := decCst s.params a.rdata
  let b := a.read e .dStat
  let d := decDst s.params b.rdata
  have hlast : stepIn e (b.atDecide c d) = .next (s.tick e) := by
    rw [stepIn_decide e (s := b.atDecide c d) rfl hr rfl rfl, State.outcome_atDecide e c d (s := b) (s.inRun_iff.1 hr).2]
    rfl
  rw [runIn_succ e 2 (stepIn_loopHead e hq hr hg hb), runIn_succ e 1 (stepIn_readD e rfl)]
  exact runIn_succ e 0 hlast

end Sys2Proof.Machine
end

section
/-! The register accesses of a tick (R163, R164, R170): two status reads, then the writes of its outcome, each of them a
reaction to a flag just read. -/

namespace Sys2Proof.Machine

/-! ### The writes of an outcome -/

/-- The writes of each outcome, latest first, with the flags they react to (R152 to R155). -/
inductive OutcomeWrites (p : Params) (c : Cst) (d : Dst) : TickKind → List Access → Prop
  | feed (b : Byte) (hr : c.inputReady = true) :
    OutcomeWrites p c d .feed [.write .cCtrl (encCctl p (feedRecord b))]
  | xfer (hv : c.outputValid = true) (hr : d.inputReady = true) :
    OutcomeWrites p c d .xfer
      [.write .dCtrl (encDctl p (inputRecord c.outputBits)), .write .cCtrl (encCctl p ackRecordC)]
  | drain (hv : d.outputValid = true) : OutcomeWrites p c d .drain [.write .dCtrl (encDctl p ackRecordD)]
  | idle : OutcomeWrites p c d .idle []

/-- `DRAIN` makes its one access whether it stores or faults (R154, R156, R157). -/
theorem State.drain_world (e : Env) (d : Dst) (s : State) :
    (s.drain e d).world = s.world.dWriteInputs s.params e ackRecordD := by
  obtain ⟨-, h⟩ | ⟨-, -, h⟩ | ⟨-, -, h⟩ := s.drain_cases e d <;> rw [h] <;> rfl

/-- An outcome adds its own writes to the trace and no other access. -/
theorem State.outcome_writes (e : Env) (c : Cst) (d : Dst) (s : State) :
    ∃ k ws, s.selects c d k ∧ OutcomeWrites s.params c d k ws
      ∧ (s.outcome e c d).world.trace = ws ++ s.world.trace := by
  obtain ⟨hk, hr, hm, ho⟩ | ⟨hk, hv, hr, ho⟩ | ⟨hk, hv, ho⟩ | ⟨hk, ho⟩ := s.outcome_selected e c d
  · obtain ⟨b, hb⟩ := State.nextByte_isSome hm
    refine ⟨_, _, hk, .feed b hr, ?_⟩
    rw [ho, State.feed_of_byte e hb]
    exact World.cWriteInputs_trace ..
  · refine ⟨_, _, hk, .xfer hv hr, ?_⟩
    rw [ho, State.xfer_world, World.dWriteInputs_trace, World.cWriteInputs_trace]
    rfl
  · refine ⟨_, _, hk, .drain hv, ?_⟩
    rw [ho, State.drain_world, World.dWriteInputs_trace]
    rfl
  · exact ⟨_, _, hk, .idle, by rw [ho]; rfl⟩

/-- A tick reads the Compressor's status, then the Decompressor's, and then makes the writes of the outcome that the two
records select (R150). -/
theorem State.tick_trace (e : Env) (s : State) :
    let x := (s.read e .cStat).rdata
    let y := ((s.read e .cStat).read e .dStat).rdata
    ∃ k ws, s.selects (decCst s.params x) (decDst s.params y) k
      ∧ OutcomeWrites s.params (decCst s.params x) (decDst s.params y) k ws
      ∧ (s.tick e).world.trace = ws ++ .read .dStat y :: .read .cStat x :: s.world.trace := by
  intro x y
  let b := (s.read e .cStat).read e .dStat
  obtain ⟨k, ws, hk, hws, htrace⟩ := b.outcome_writes e (decCst s.params x) (decDst s.params y)
  refine ⟨k, ws, hk, hws, ?_⟩
  obtain ⟨hworld, -⟩ := (b.outcome e (decCst s.params x) (decDst s.params y)).endTick_frame
  calc (s.tick e).world.trace
      = ws ++ b.world.trace := (congrArg World.trace hworld).trans htrace
    _ = ws ++ .read .dStat y :: .read .cStat x :: s.world.trace := by
        simp only [b, State.read_world, World.regRead_trace]
        rfl

/-- Settles O24: the two reads and the writes of the outcome selected. -/
theorem tickAccessCounts : Obligations.TickAccessCounts := by
  unfold Obligations.TickAccessCounts
  intro e s a b
  obtain ⟨k, ws, hk, hws, htrace⟩ := s.tick_trace e
  have hk : tickKind (decodeTick (s.vectorOf (decCst s.params a.rdata) (decDst s.params b.rdata))) = some k := hk
  rw [hk, World.accesses, World.accesses, htrace, List.length_append, Nat.add_comm]
  cases hws <;> rfl

/-! ### The words and the flags they react to -/

/-- A control word of either unit reacts to the two flags that its unit showed. -/
theorem OutcomeWrites.reacts {p : Params} {c : Cst} {d : Dst} {k : TickKind} {ws : List Access} (hp : p.legal = true)
    (h : OutcomeWrites p c d k ws) : ∀ a ∈ ws,
      (∃ v, a = .write .cCtrl v ∧ (decCctl p v).stop = false
        ∧ ((decCctl p v).inputValid = true → c.inputReady = true)
        ∧ ((decCctl p v).outputReady = true → c.outputValid = true))
      ∨ ∃ v, a = .write .dCtrl v
        ∧ ((decDctl p v).inputValid = true → d.inputReady = true ∧ c.outputValid = true)
        ∧ ((decDctl p v).outputReady = true → d.outputValid = true) := by
  intro a ha
  cases h with
  | feed b hr =>
    obtain rfl := List.mem_singleton.1 ha
    exact .inl ⟨_, rfl, by simp [decCctl_encCctl hp, feedRecord, hr]⟩
  | xfer hv hr =>
    obtain rfl | ha := List.mem_cons.1 ha
    · exact .inr ⟨_, rfl, by simp [decDctl_encDctl hp, inputRecord, hv, hr]⟩
    · obtain rfl := List.mem_singleton.1 ha
      exact .inl ⟨_, rfl, by simp [decCctl_encCctl hp, ackRecordC, hv]⟩
  | drain hv =>
    obtain rfl := List.mem_singleton.1 ha
    exact .inr ⟨_, rfl, by simp [decDctl_encDctl hp, ackRecordD, hv]⟩
  | idle => cases ha

/-- At most two writes, those of `XFER`. -/
theorem OutcomeWrites.length_le {p : Params} {c : Cst} {d : Dst} {k : TickKind} {ws : List Access}
    (h : OutcomeWrites p c d k ws) : ws.length ≤ 2 := by cases h <;> simp

/-- Settles O46: after the two reads come the outcome's writes, which react to the records of these reads. -/
theorem tickReadsBeforeItWrites : Obligations.TickReadsBeforeItWrites := by
  unfold Obligations.TickReadsBeforeItWrites
  intro e s p hp
  obtain ⟨k, ws, -, hws, htrace⟩ := s.tick_trace e
  refine ⟨_, _, ws, htrace, hws.length_le, fun a ha => ?_⟩
  obtain ⟨v, hv, -, hin, hout⟩ | ⟨v, hv, hin, hout⟩ := hws.reacts hp a ha
  · exact .inl ⟨v, hv, hin, hout⟩
  · exact .inr ⟨v, hv, fun h => (hin h).1, hout⟩

/-! ### The accesses of a step -/

/-- From `s` to `t` accesses are made, or none, that write no control register. -/
def NoControlWrites (s t : State) : Prop :=
  ∃ new, t.world.trace = new ++ s.world.trace ∧ ∀ v, .write .cCtrl v ∉ new ∧ .write .dCtrl v ∉ new

theorem noControlWrites_silent {s t : State} (h : t.world = s.world) : NoControlWrites s t :=
  ⟨[], by rw [h]; rfl, by simp⟩

theorem noControlWrites_read {e : Env} {s t : State} (r : ReadReg) (h : t.world = (s.read e r).world) :
    NoControlWrites s t := ⟨[_], by rw [h, State.read_world, World.regRead_trace]; rfl, by simp⟩

theorem noControlWrites_write {e : Env} {s t : State} {r : WriteReg} {x : Nat} (hr : r ≠ .cCtrl ∧ r ≠ .dCtrl)
    (h : t.world = (s.write e r x).world) : NoControlWrites s t :=
  ⟨[_], by rw [h, State.write_world, World.regWrite_trace]; rfl, by simp [hr.1.symm, hr.2.symm]⟩

/-- A step of a run makes no control write, or it is the outcome of a tick. -/
theorem StepCase.noControlWrites_or_outcome {e : Env} {s t : State} (h : StepCase e s t) (hq : s.seq ≠ .idle) :
    NoControlWrites s t ∨
    ∃ c d, s.seq = .decide ∧ s.cst = some c ∧ s.dst = some d ∧ t = (s.outcome e c d).endTick := by
  cases h with
  | noRequest hq' | runStart _ _ hq' | resultsTaken _ hq' | hostOp _ _ _ _ hq' => exact absurd hq' hq
  | outcome c d hq' hc hd => exact .inr ⟨c, d, hq', hc, hd, rfl⟩
  | budgetHit | drainStart | closeStart | faultSeen | runEnd => exact .inl (noControlWrites_silent rfl)
  | clearCycle => exact .inl (noControlWrites_write (r := .cycle) (by decide) rfl)
  | clearInstr => exact .inl (noControlWrites_write (r := .instr) (by decide) rfl)
  | resetC | resetD | baseCycle | pumpStart | tickStart | secondRead | closeCycle | closeInstr =>
    exact .inl (noControlWrites_read _ rfl)

/-- Settles O45: the control writes of a step are those of a tick's outcome. -/
theorem controlWritesAreJustified : Obligations.ControlWritesAreJustified := by
  unfold Obligations.ControlWritesAreJustified
  intro s t hp hq hstep
  obtain ⟨new, htrace, hno⟩ | ⟨c, d, hdec, hc, hd, rfl⟩ := (step_cases hstep).noControlWrites_or_outcome hq
  · exact ⟨new, htrace, fun v hv => absurd hv (hno v).1, fun v hv => absurd hv (hno v).2⟩
  · obtain ⟨k, ws, -, hws, htrace⟩ := s.outcome_writes Config.env c d
    obtain ⟨hworld, -⟩ := (s.outcome Config.env c d).endTick_frame
    refine ⟨ws, (congrArg World.trace hworld).trans htrace, fun v hv => ?_, fun v hv => ?_⟩
    · obtain ⟨v', hv', hreact⟩ | ⟨_, hv', -⟩ := hws.reacts hp _ hv
      · cases hv'
        exact ⟨c, hdec, hc, hreact⟩
      · cases hv'
    · obtain ⟨_, hv', -⟩ | ⟨v', hv', hreact⟩ := hws.reacts hp _ hv
      · cases hv'
      · cases hv'
        exact ⟨c, d, hdec, hc, hd, hreact⟩

end Sys2Proof.Machine
end

section
/-! The cursors and the output buffer over a tick (R161, R168). -/

namespace Sys2Proof.Machine

/-! ### What an outcome does to the cursors and the buffer -/

/-- An outcome moves `in_cur` by one byte, which is left to feed, or not at all; it stores at most two bytes from `out_cur`
on, within the buffer, and moves `out_cur` past them (R152, R154). -/
structure State.Advances (s t : State) : Prop where
  args : t.args = s.args
  input : t.inCur = s.inCur ∨ (s.more = true ∧ t.inCur = s.inCur + 1)
  output : ∃ bs : List Byte, bs.length ≤ 2 ∧ (s.outCur ≤ s.args.outCap → s.outCur + bs.length ≤ s.args.outCap)
    ∧ t.outCur = s.outCur + bs.length ∧ t.outBuf = s.outBuf.writeBytes s.outCur bs

/-- The cursors, the buffer and the arguments stay. -/
theorem State.advances_of_stay {s t : State} (ha : t.args = s.args) (hi : t.inCur = s.inCur) (ho : t.outCur = s.outCur)
    (hb : t.outBuf = s.outBuf) : s.Advances t := ⟨ha, .inl hi, [], by simp, id, ho, hb⟩

theorem State.outcome_advances (e : Env) (c : Cst) (d : Dst) (s : State) : s.Advances (s.outcome e c d) := by
  obtain ⟨-, -, hm, ho⟩ | ⟨-, -, -, ho⟩ | ⟨-, -, ho⟩ | ⟨-, ho⟩ := s.outcome_selected e c d <;> rw [ho]
  case inl =>
    obtain ⟨b, hb⟩ := State.nextByte_isSome hm
    rw [State.feed_of_byte e hb]
    exact ⟨rfl, .inr ⟨hm, rfl⟩, [], by simp, id, rfl, rfl⟩
  case inr.inl => exact State.advances_of_stay rfl rfl rfl rfl
  case inr.inr.inl =>
    obtain ⟨-, h⟩ | ⟨-, -, h⟩ | ⟨hlen, hroom, h⟩ := s.drain_cases e d <;> rw [h]
    · exact State.advances_of_stay rfl rfl rfl rfl
    · exact State.advances_of_stay rfl rfl rfl rfl
    · have hbytes := unpack_length (o := d.outputBits) hlen
      exact ⟨rfl, .inl rfl, unpack d.outputBits d.dataOutLength, hbytes.trans_le hlen,
        fun _ => by rw [hbytes]; exact hroom, by rw [hbytes], rfl⟩
  case inr.inr.inr => exact State.advances_of_stay rfl rfl rfl rfl

/-- The end of the tick adds nothing to that. -/
theorem State.Advances.endTick {s t : State} (h : s.Advances t) : s.Advances t.endTick := by
  obtain ⟨-, hargs, hin, hout, hbuf, -⟩ := t.endTick_frame
  obtain ⟨ha, hi, bs, hlen, hroom, ho, hb⟩ := h
  exact ⟨hargs.trans ha, by rw [hin]; exact hi, bs, hlen, hroom, hout.trans ho, hbuf.trans hb⟩

theorem State.tick_advances (e : Env) (s : State) : s.Advances (s.tick e) := by
  let b := (s.read e .cStat).read e .dStat
  obtain ⟨ha, hi, ho⟩ := (b.outcome_advances e (decCst s.params (s.read e .cStat).rdata)
    (decDst s.params b.rdata)).endTick
  exact ⟨ha, hi, ho⟩

/-! ### The invariants of a run -/

/-- Settles O42: the bytes a tick stores stand from the old `out_cur` up to the new one. -/
theorem tickKeepsRunInvariants : Obligations.TickKeepsRunInvariants := by
  unfold Obligations.TickKeepsRunInvariants
  intro e s _ hin hout hwritten hunwritten t
  obtain ⟨hargs, hinput, bs, hlen, hroom, houtCur, hbuf⟩ : s.Advances t := s.tick_advances e
  have hfits := hroom hout
  have hread : ∀ i, t.outBuf.read i
      = if s.outCur ≤ i ∧ i < s.outCur + bs.length then bs[i - s.outCur]? else s.outBuf.read i := fun i => by
    rw [hbuf, Memory.read_writeBytes]
  have hinCur : s.inCur ≤ t.inCur ∧ t.inCur ≤ s.inCur + 1 ∧ t.inCur ≤ s.args.inLen := by
    rcases hinput with h | ⟨hmore, h⟩
    · omega
    · have := s.more_iff.1 hmore
      omega
  refine ⟨hargs, hargs ▸ hinCur.2.2, ?_, hinCur.1, hinCur.2.1, by omega, by omega, fun i hi => ?_, fun i hi => ?_,
    fun i b hb => ?_⟩
  · rw [hargs, houtCur]
    exact hfits
  · rw [hread]
    split
    · rw [List.getElem?_eq_getElem (by omega)]
      rfl
    · exact hwritten i (by omega)
  · rw [hread, if_neg (by omega)]
    exact hunwritten i (by omega)
  · have hlt : i < s.outCur := by
      by_contra h
      rw [hunwritten i (by omega)] at hb
      cases hb
    rw [hread, if_neg (by omega)]
    exact hb

/-! ### Draining -/

/-- Without a byte left no status records select `FEED` (R161). -/
theorem State.not_selects_feed {s : State} (c : Cst) (d : Dst) (hm : s.more = false) : ¬ s.selects c d .feed := by
  intro h
  have := (State.outcome_of_selects Config.env h).2 rfl
  simp [hm] at this

/-- Settles O43: the invariant says that the input is used up in DRAINING, and only an outcome moves `in_cur`. -/
theorem drainingNeverFeeds : Obligations.DrainingNeverFeeds := by
  unfold Obligations.DrainingNeverFeeds
  intro s t hinv hphase hstep
  have hused := hinv.drained hphase
  have hmore : s.more = false := by
    rw [← Bool.not_eq_true, s.more_iff, hused]
    exact Nat.lt_irrefl _
  have hq : s.seq ≠ .idle := fun hq => by simpa [hphase] using hinv.phaseIdle hq
  refine ⟨hused, ?_, fun c d _ _ => State.not_selects_feed c d hmore⟩
  cases step_cases hstep with
  | noRequest hq' | runStart _ _ hq' | resultsTaken _ hq' | hostOp _ _ _ _ hq' => exact absurd hq' hq
  | outcome c d =>
    obtain ⟨-, h | ⟨h, -⟩, -⟩ := (s.outcome_advances Config.env c d).endTick
    · exact h
    · simp [hmore] at h
  | resetC | resetD | clearCycle | clearInstr | baseCycle | pumpStart | tickStart | budgetHit | drainStart | closeStart
  | faultSeen | secondRead | closeCycle | closeInstr | runEnd => rfl

end Sys2Proof.Machine
end

section
/-! A run through identity units returns its input (R171): the steps around the two loops, the identity units, and the
bytes that stand between the input and the output at the head of a loop. -/

namespace Sys2Proof.Machine

/-! ### Reaching a state -/

/-- Some number of steps leads from `s` to `t`. -/
def Reaches (e : Env) (s t : State) : Prop := ∃ n, runIn e n s = .next t

theorem Reaches.refl (e : Env) (s : State) : Reaches e s s := ⟨0, rfl⟩

theorem Reaches.of_step {e : Env} {s t : State} (h : stepIn e s = .next t) : Reaches e s t := ⟨1, runIn_succ e 0 h⟩

theorem Reaches.trans {e : Env} {s t u : State} (h : Reaches e s t) (h' : Reaches e t u) : Reaches e s u := by
  obtain ⟨m, hm⟩ := h
  obtain ⟨n, hn⟩ := h'
  exact ⟨m + n, (runIn_add e m n hm).trans hn⟩

/-! ### The steps around the loops -/

/-- A host's legal run starts from IDLE (R165, R242). -/
theorem stepIn_runStart (e : Env) {s : State} {a : RunArgs} {rest : List HostReq} (hq : s.seq = .idle)
    (hi : s.phase = .idle) (hp : s.port = .run a :: rest) (hl : a.legal = true) :
    stepIn e s = .next ({ s with port := rest }.startRun a) :=
  stepWith_silent (by simp only [State.nextOp, hq, State.serveHost, hp, if_pos hi, if_pos hl])

/-- The same state at another position of the sequence. -/
def State.inSeq (q : Seq) (s : State) : State := { s with seq := q }

theorem State.inSeq_self {q : Seq} {s : State} (h : s.seq = q) : s.inSeq q = s := by
  subst h
  rfl

/-- The state in which the pump begins: both units reset, the counters cleared, the baseline taken (R165). -/
def State.prologue (e : Env) (s : State) : State :=
  let p := (((s.read e .cRst).read e .dRst).pcReset e).pcSnapshot e
  { p.2 with s0 := some p.1, phase := .pump, seq := .loopHead }

/-- The six accesses before the pump (R165, R183, R184). -/
theorem reaches_prologue (e : Env) {s : State} (hq : s.seq = .resetC) : Reaches e s (s.prologue e) := by
  let s1 := s.read e .cRst
  let s2 := s1.read e .dRst
  let s3 := s2.write e .cycle 0
  let s4 := s3.write e .instr 0
  let s5 := s4.read e .cycle
  have resetC : stepIn e (s.inSeq .resetC) = .next (s1.inSeq .resetD) := stepIn_read e (r := .cRst) rfl nofun
  have resetD : stepIn e (s1.inSeq .resetD) = .next (s2.inSeq .clearCycle) := stepIn_read e (r := .dRst) rfl nofun
  have clearCycle : stepIn e (s2.inSeq .clearCycle) = .next (s3.inSeq .clearInstr) := stepIn_write e (r := .cycle) rfl nofun
  have clearInstr : stepIn e (s3.inSeq .clearInstr) = .next (s4.inSeq .baseCycle) := stepIn_write e (r := .instr) rfl nofun
  have baseCycle : stepIn e (s4.inSeq .baseCycle) = .next (s5.inSeq .baseInstr) := stepIn_read e (r := .cycle) rfl nofun
  have baseInstr : stepIn e (s5.inSeq .baseInstr) = .next (s.prologue e) := stepIn_read e (r := .instr) rfl nofun
  rw [← State.inSeq_self hq]
  exact (Reaches.of_step resetC).trans <| (Reaches.of_step resetD).trans <| (Reaches.of_step clearCycle).trans <|
    (Reaches.of_step clearInstr).trans <| (Reaches.of_step baseCycle).trans <| .of_step baseInstr

/-- The end of the pump with a drain phase to come (R158, R165). -/
theorem stepIn_drainStart (e : Env) {s : State} (hq : s.seq = .loopHead) (hr : s.inRun = true) (hg : s.loopGoes = false)
    (hp : s.phase = .pump) (hm : s.args.termMode = .drainToLength) :
    stepIn e s = .next { s with phase := .draining } := by
  obtain ⟨hphase, hf⟩ := s.inRun_iff.1 hr
  have hnext : s.nextOp = s.atLoopHead := by simp only [State.nextOp, hq]
  refine stepWith_silent ?_
  rw [hnext, State.atLoopHead_eq s hphase, if_neg (by simp [hf]), if_neg (by simp [hg]), if_pos ⟨hp, hm⟩]

/-- The end of the drain phase (R160, R165). -/
theorem stepIn_closeStart (e : Env) {s : State} (hq : s.seq = .loopHead) (hr : s.inRun = true) (hg : s.loopGoes = false)
    (hp : s.phase = .draining) : stepIn e s = .next (s.inSeq .closeCycle) := by
  obtain ⟨hphase, hf⟩ := s.inRun_iff.1 hr
  have hnext : s.nextOp = s.atLoopHead := by simp only [State.nextOp, hq]
  refine stepWith_silent ?_
  rw [hnext, State.atLoopHead_eq s hphase, if_neg (by simp [hf]), if_neg (by simp [hg]), if_neg (by simp [hp]), State.inSeq]

/-- The run's last step, with both samples taken (R165). -/
theorem stepIn_finish (e : Env) {s : State} {x y : Sample} (hq : s.seq = .finish) (h0 : s.s0 = some x)
    (h1 : s.s1 = some y) : stepIn e s = .next (s.closeRun x y) :=
  stepWith_silent (by simp only [State.nextOp, hq, h0, h1])

/-- The closing snapshot and the run's last step (R165, R184). -/
theorem reaches_closeRun (e : Env) {s : State} {x : Sample} (h0 : s.s0 = some x) :
    Reaches e (s.inSeq .closeCycle) ((s.pcSnapshot e).2.closeRun x (s.pcSnapshot e).1) := by
  let s1 := s.read e .cycle
  let s2 : State := { s1.read e .instr with s1 := some (s.pcSnapshot e).1 }
  have closeCycle : stepIn e (s.inSeq .closeCycle) = .next (s1.inSeq .closeInstr) := stepIn_read e (r := .cycle) rfl nofun
  have closeInstr : stepIn e (s1.inSeq .closeInstr) = .next (s2.inSeq .finish) := stepIn_read e (r := .instr) rfl nofun
  have finish : stepIn e (s2.inSeq .finish) = .next ((s.pcSnapshot e).2.closeRun x (s.pcSnapshot e).1) :=
    stepIn_finish e rfl h0 rfl
  exact (Reaches.of_step closeCycle).trans <| (Reaches.of_step closeInstr).trans <| .of_step finish

end Sys2Proof.Machine
end

section
/-! The identity units and the end-to-end law (R171): what the units show and take, and the bytes that stand between the
input and the output at the head of a loop. -/

namespace Sys2Proof.Machine

/-! ### The identity units -/

/-- A list of bytes as the numbers a mock's slot holds. -/
abbrev slotValue (bs : List Byte) : UnitState := bs.map BitVec.toNat

/-- The record that the status word of a `MockC` holding these bytes shows. -/
def shownC (p : Params) (cs : List Byte) : Cst := decCst p (trunc p.W ((mockC p).status (slotValue cs)))

/-- The record that the status word of a `MockD` holding these bytes shows. -/
def shownD (p : Params) (ds : List Byte) : Dst := decDst p (trunc p.W ((mockD p).status (slotValue ds)))

/-- What an empty `MockC` shows. -/
theorem shownC_nil {p : Params} (hp : p.legal = true) :
    shownC p [] = ⟨true, false, 0⟩ := by
  simp only [shownC, mockC, List.map, trunc_of_lt (encCst_lt p _), decCst_encCst hp, Nat.zero_mod]

/-- What a full `MockC` shows. -/
theorem shownC_byte {p : Params} (hp : p.legal = true) (b : Byte) :
    shownC p [b] = ⟨false, true, b.toNat⟩ := by
  obtain ⟨hW, -⟩ := Params.legal_bounds hp
  have hfits : b.toNat < 2 ^ (p.W - 2) := Nat.lt_of_lt_of_le b.isLt (Nat.pow_le_pow_right (by decide) (by omega))
  simp only [shownC, mockC, List.map, trunc_of_lt (encCst_lt p _), decCst_encCst hp, Nat.mod_eq_of_lt hfits]

/-- What an empty `MockD` shows. -/
theorem shownD_nil {p : Params} (hp : p.legal = true) :
    shownD p [] = ⟨true, false, 0, 0⟩ := by
  simp only [shownD, mockD, List.map, trunc_of_lt (encDst_lt p _), decDst_encDst hp, Nat.zero_mod]

/-- What a full `MockD` shows. -/
theorem shownD_byte {p : Params} (hp : p.legal = true) (b : Byte) :
    shownD p [b] = ⟨false, true, b.toNat, 1⟩ := by
  obtain ⟨hW, -⟩ := Params.legal_bounds hp
  have hbits : b.toNat < 2 ^ 16 := Nat.lt_trans b.isLt (by decide)
  have hlen : 1 < 2 ^ (p.W - 18) := Nat.one_lt_two_pow (by omega)
  simp only [shownD, mockD, List.map, trunc_of_lt (encDst_lt p _), decDst_encDst hp, trunc_of_lt hbits,
    Nat.mod_eq_of_lt hbits, Nat.mod_eq_of_lt hlen]

theorem mockC_takes_feed {p : Params} (hp : p.legal = true) (b : Byte) :
    (mockC p).onCtrl [] (encCctl p (feedRecord b)) = [b.toNat] := by
  simp [mockC, decCctl_encCctl hp, feedRecord, byte_mod_ccInW hp]

theorem mockC_gives_ack {p : Params} (hp : p.legal = true) (v : Nat) :
    (mockC p).onCtrl [v] (encCctl p ackRecordC) = [] := by
  simp [mockC, decCctl_encCctl hp, ackRecordC]

theorem mockD_takes_input {p : Params} (hp : p.legal = true) (h8 : 8 ≤ p.dcInW) (b : Byte) :
    (mockD p).onCtrl [] (encDctl p (inputRecord b.toNat)) = [b.toNat] := by
  have hfits : b.toNat < 2 ^ p.dcInW := Nat.lt_of_lt_of_le b.isLt (Nat.pow_le_pow_right (by decide) h8)
  simp [mockD, decDctl_encDctl hp, inputRecord, Nat.mod_eq_of_lt hfits]

theorem mockD_gives_ack {p : Params} (hp : p.legal = true) (v : Nat) :
    (mockD p).onCtrl [v] (encDctl p ackRecordD) = [] := by
  simp [mockD, decDctl_encDctl hp, ackRecordD]

/-! ### What stands between the input and the output -/

/-- The arguments of the end-to-end law (R171): a byte fits `DCTL.inputBits`, the output has room for the whole input and is
awaited to its length, and no budget ends the run. -/
structure RoundTripArgs (a : RunArgs) : Prop where
  legal : a.params.legal = true
  byteFits : 8 ≤ a.params.dcInW
  room : a.inLen ≤ a.outCap
  awaited : a.expectLen = a.inLen
  drains : a.termMode = .drainToLength
  unbudgeted : a.tickBudget = none

/-- The head of a loop in phase `ph` of a run through identity units: the Compressor holds `cs`, the Decompressor `ds`, each
at most one byte; together they are the input from `out_cur` up to `in_cur`; what is below `out_cur` is stored; every tick
so far moved a byte on by one of its three moves. -/
structure Relay (a : RunArgs) (ph : Phase) (cs ds : List Byte) (s : State) : Prop where
  args : s.args = a
  phase : s.phase = ph
  running : s.inRun = true
  atHead : s.seq = .loopHead
  baseline : s.s0.isSome = true
  drained : ph = .draining → s.inCur = a.inLen
  inBound : s.inCur ≤ a.inLen
  order : s.outCur ≤ s.inCur
  unitC : s.world.unitC = slotValue cs
  unitD : s.world.unitD = slotValue ds
  slotC : cs = [] ∨ ∃ b, cs = [b]
  slotD : ds = [] ∨ ∃ b, ds = [b]
  inFlight : ds ++ cs = (a.inBuf.take s.inCur).drop s.outCur
  stored : ∀ i, i < s.outCur → s.outBuf.read i = a.inBuf[i]?
  counted : s.ticks = s.inCur + 2 * s.outCur + ds.length

theorem Relay.length_fed {a : RunArgs} {ph : Phase} {cs ds : List Byte} {s : State} (h : Relay a ph cs ds s) :
    (a.inBuf.take s.inCur).length = s.inCur := List.length_take.trans (Nat.min_eq_left h.inBound)

/-- The bytes in flight are those fed and not yet stored. -/
theorem Relay.length_inFlight {a : RunArgs} {ph : Phase} {cs ds : List Byte} {s : State} (h : Relay a ph cs ds s) :
    ds.length + cs.length = s.inCur - s.outCur := by
  have := congrArg List.length h.inFlight
  rw [List.length_append, List.length_drop, h.length_fed] at this
  exact this

/-- No more ticks than three moves for each byte of the input. -/
theorem Relay.ticks_le {a : RunArgs} {ph : Phase} {cs ds : List Byte} {s : State} (h : Relay a ph cs ds s) :
    s.ticks ≤ 3 * a.inLen := by
  have := h.length_inFlight
  have := h.counted
  have := h.inBound
  have := h.order
  omega

/-- A loop goes on while a byte is left to feed or one is in flight. -/
theorem Relay.left_of_loopGoes {a : RunArgs} {ph : Phase} {cs ds : List Byte} {s : State} (h : Relay a ph cs ds s)
    (hexp : a.expectLen = a.inLen) (hg : s.loopGoes = true) : s.inCur < a.inLen ∨ s.outCur < s.inCur := by
  rcases (s.inRun_iff.1 h.running).1 with hp | hp <;> simp only [State.loopGoes, hp] at hg
  · exact .inl (h.args ▸ s.more_iff.1 hg)
  · rw [h.args, hexp, ← h.drained (h.phase ▸ hp)] at hg
    exact .inr (of_decide_eq_true hg)

/-- The pump ends when every byte is fed, the drain phase when every byte is stored too. -/
theorem Relay.ended_of_not_loopGoes {a : RunArgs} {ph : Phase} {cs ds : List Byte} {s : State} (h : Relay a ph cs ds s)
    (hexp : a.expectLen = a.inLen) (hg : s.loopGoes = false) :
    s.inCur = a.inLen ∧ (ph = .draining → s.outCur = a.inLen) := by
  have hin := h.inBound
  have hout := h.order
  rcases (s.inRun_iff.1 h.running).1 with hp | hp <;> simp only [State.loopGoes, hp] at hg
  · have hno : ¬ s.inCur < s.args.inLen := fun hlt => by simp [s.more_iff.2 hlt] at hg
    rw [h.args] at hno
    exact ⟨by omega, fun hd => absurd (hp.symm.trans (h.phase.trans hd)) (by decide)⟩
  · have hno : ¬ s.outCur < s.args.expectLen := of_decide_eq_false hg
    rw [h.args, hexp] at hno
    exact ⟨by omega, fun _ => by omega⟩

section
variable {a : RunArgs} (dc di word : List Access → Nat)

/-- The identity units with any draws. -/
abbrev identityEnv (p : Params) : Env := unitsEnv (mockC p) (mockD p) dc di word

/-- A status read changes nothing that matters here. -/
theorem Relay.read {ph : Phase} {cs ds : List Byte} {s : State} (h : Relay a ph cs ds s) {r : ReadReg}
    (hr : r = .cStat ∨ r = .dStat) : Relay a ph cs ds (s.read (identityEnv dc di word a.params) r) := by
  obtain ⟨args, phase, running, atHead, baseline, drained, inBound, order, unitC, unitD, slotC, slotD, inFlight, stored,
    counted⟩ := h
  rcases hr with rfl | rfl <;>
    exact ⟨args, phase, running, atHead, baseline, drained, inBound, order, unitC, unitD, slotC, slotD, inFlight, stored,
      counted⟩

/-- `FEED` moves the next byte of the input into the empty Compressor. -/
theorem Relay.feed (hp : a.params.legal = true) {ph : Phase} {ds : List Byte} {s : State} (h : Relay a ph [] ds s)
    (hlt : s.inCur < a.inLen) :
    Relay a ph [a.inBuf[s.inCur]] ds (s.feed (identityEnv dc di word a.params)).endTick
      ∧ (s.feed (identityEnv dc di word a.params)).endTick.ticks = s.ticks + 1 := by
  have hb : s.nextByte = some a.inBuf[s.inCur] := by
    rw [State.nextByte, h.args]
    exact List.getElem?_eq_getElem hlt
  have hf := (s.inRun_iff.1 h.running).2
  rw [State.endTick_of_none ((s.feed_fault _).trans hf), State.feed_of_byte _ hb, State.cWriteInputs,
    World.cWriteInputs_eq]
  refine ⟨⟨h.args, h.phase, h.running, rfl, h.baseline, fun hd => absurd (h.drained hd) (by omega), hlt,
    Nat.le_succ_of_le h.order, ?_, h.unitD, .inr ⟨_, rfl⟩, h.slotD, ?_, h.stored, ?_⟩, rfl⟩
  · show (mockC a.params).onCtrl s.world.unitC (encCctl s.args.params _) = _
    rw [h.unitC, h.args]
    exact mockC_takes_feed hp _
  · have hlen : s.outCur ≤ (a.inBuf.take s.inCur).length := h.length_fed.symm ▸ h.order
    rw [← List.take_append_getElem hlt, List.drop_append_of_le_length hlen, ← h.inFlight, List.append_nil]
  · show s.ticks + 1 = s.inCur + 1 + 2 * s.outCur + ds.length
    rw [h.counted]
    omega

/-- `XFER` moves the Compressor's byte into the empty Decompressor. -/
theorem Relay.xfer (hp : a.params.legal = true) (h8 : 8 ≤ a.params.dcInW) {ph : Phase} {b : Byte} {s : State}
    (h : Relay a ph [b] [] s) :
    Relay a ph [] [b] (s.xfer (identityEnv dc di word a.params) ⟨false, true, b.toNat⟩).endTick
      ∧ (s.xfer (identityEnv dc di word a.params) ⟨false, true, b.toNat⟩).endTick.ticks = s.ticks + 1 := by
  have hf := (s.inRun_iff.1 h.running).2
  rw [State.endTick_of_none (s := s.xfer _ _) hf, State.xfer, State.dWriteInputs, World.dWriteInputs_eq,
    State.cWriteInputs, World.cWriteInputs_eq]
  refine ⟨⟨h.args, h.phase, h.running, rfl, h.baseline, h.drained, h.inBound, h.order, ?_, ?_, .inl rfl,
    .inr ⟨_, rfl⟩, h.inFlight, h.stored, ?_⟩, rfl⟩
  · show (mockC a.params).onCtrl s.world.unitC (encCctl s.args.params _) = _
    rw [h.unitC, h.args]
    exact mockC_gives_ack hp _
  · show (mockD a.params).onCtrl s.world.unitD (encDctl s.args.params _) = _
    rw [h.unitD, h.args]
    exact mockD_takes_input hp h8 b
  · show s.ticks + 1 = s.inCur + 2 * s.outCur + 1
    rw [h.counted]
    rfl

/-- `DRAIN` stores the Decompressor's byte, the next of the output. -/
theorem Relay.drain (hp : a.params.legal = true) (hcap : a.inLen ≤ a.outCap) {ph : Phase} {cs : List Byte} {b : Byte}
    {s : State} (h : Relay a ph cs [b] s) :
    Relay a ph cs [] (s.drain (identityEnv dc di word a.params) ⟨false, true, b.toNat, 1⟩).endTick
      ∧ (s.drain (identityEnv dc di word a.params) ⟨false, true, b.toNat, 1⟩).endTick.ticks = s.ticks + 1 := by
  have hf := (s.inRun_iff.1 h.running).2
  have hlen := h.length_inFlight
  have hout : s.outCur < s.inCur := by
    rw [List.length_singleton] at hlen
    omega
  have hin := h.inBound
  have hdrop : (a.inBuf.take s.inCur).drop s.outCur = b :: cs := h.inFlight.symm
  have hroom : s.outCur + 1 ≤ s.args.outCap := by
    rw [h.args]
    omega
  have hdrain := State.drain_of_room (identityEnv dc di word a.params) (d := ⟨false, true, b.toNat, 1⟩) (s := s)
    (Nat.le_succ 1) hroom
  rw [State.endTick_of_none (by rw [hdrain]; exact hf), hdrain, State.dWriteInputs, World.dWriteInputs_eq]
  refine ⟨⟨h.args, h.phase, h.running, rfl, h.baseline, h.drained, h.inBound, hout, h.unitC, ?_, h.slotC, .inl rfl,
    ?_, fun i hi => ?_, ?_⟩, rfl⟩
  · show (mockD a.params).onCtrl s.world.unitD (encDctl s.args.params _) = _
    rw [h.unitD, h.args]
    exact mockD_gives_ack hp _
  · show [] ++ cs = (a.inBuf.take s.inCur).drop (s.outCur + 1)
    rw [← List.tail_drop, hdrop]
    rfl
  · show (s.outBuf.writeBytes s.outCur (unpack b.toNat 1)).read i = a.inBuf[i]?
    rw [unpack_byte, Memory.writeBytes, Memory.writeBytes, Memory.read_write]
    split
    · next heq =>
      have hhead : ((a.inBuf.take s.inCur).drop s.outCur)[0]? = some b := by rw [hdrop]; rfl
      rw [List.getElem?_drop, Nat.add_zero, List.getElem?_take_of_lt hout] at hhead
      rw [heq, hhead]
    · next hne =>
      have hi : i < s.outCur + 1 := hi
      exact h.stored i (by omega)
  · show s.ticks + 1 = s.inCur + 2 * (s.outCur + 1) + 0
    rw [h.counted, List.length_singleton]
    omega

/-- With a byte left to feed or one in flight, the outcome that the two slots select moves one byte on: the Compressor is
filled first, then emptied into the Decompressor, and a full Decompressor is emptied before that. -/
theorem Relay.outcome (ha : RoundTripArgs a) {ph : Phase} {cs ds : List Byte} {s : State} (h : Relay a ph cs ds s)
    (hleft : s.inCur < a.inLen ∨ s.outCur < s.inCur) :
    let t := (s.outcome (identityEnv dc di word a.params)
      (shownC a.params cs) (shownD a.params ds)).endTick
    ∃ cs' ds', Relay a ph cs' ds' t ∧ t.ticks = s.ticks + 1 := by
  have hlen := h.length_inFlight
  have hmore : s.more = decide (s.inCur < a.inLen) := by rw [State.more, h.args]
  rcases h.slotC with rfl | ⟨x, rfl⟩
  · rw [shownC_nil ha.legal]
    by_cases hlt : s.inCur < a.inLen
    · have hfeed : ∀ d, s.outcome (identityEnv dc di word a.params) ⟨true, false, 0⟩ d
          = s.feed (identityEnv dc di word a.params) := fun d => by simp [State.outcome, hmore, hlt]
      rw [hfeed]
      exact ⟨_, _, h.feed dc di word ha.legal hlt⟩
    · obtain rfl | ⟨y, rfl⟩ := h.slotD
      · simp only [List.length_nil] at hlen
        omega
      · have hdrain : ∀ d : Dst, d.outputValid = true →
            s.outcome (identityEnv dc di word a.params) ⟨true, false, 0⟩ d
              = s.drain (identityEnv dc di word a.params) d := fun d hd => by simp [State.outcome, hmore, hlt, hd]
        rw [shownD_byte ha.legal, hdrain _ rfl]
        exact ⟨_, _, h.drain dc di word ha.legal ha.room⟩
  · rw [shownC_byte ha.legal]
    obtain rfl | ⟨y, rfl⟩ := h.slotD
    · rw [shownD_nil ha.legal]
      exact ⟨_, _, h.xfer dc di word ha.legal ha.byteFits⟩
    · rw [shownD_byte ha.legal]
      exact ⟨_, _, h.drain dc di word ha.legal ha.room⟩

/-- A tick reads what the two slots show. -/
theorem Relay.tick_eq {ph : Phase} {cs ds : List Byte} {s : State} (h : Relay a ph cs ds s) :
    s.tick (identityEnv dc di word a.params)
      = (((s.read (identityEnv dc di word a.params) .cStat).read (identityEnv dc di word a.params) .dStat).outcome
          (identityEnv dc di word a.params) (shownC a.params cs) (shownD a.params ds)).endTick := by
  rw [shownC, shownD, ← h.unitC, ← h.unitD]
  obtain ⟨rfl, -⟩ := h
  rfl

/-- A tick at the head of a loop that goes on moves one byte on: it never idles. -/
theorem Relay.tick (ha : RoundTripArgs a) {ph : Phase} {cs ds : List Byte} {s : State} (h : Relay a ph cs ds s)
    (hg : s.loopGoes = true) :
    ∃ cs' ds', Relay a ph cs' ds' (s.tick (identityEnv dc di word a.params))
      ∧ (s.tick (identityEnv dc di word a.params)).ticks = s.ticks + 1 := by
  rw [h.tick_eq dc di word]
  exact ((h.read dc di word (.inl rfl)).read dc di word (.inr rfl)).outcome dc di word ha
    (h.left_of_loopGoes ha.awaited hg)

end

end Sys2Proof.Machine
end

section
/-! The run through identity units from its request to its end (R171). -/

namespace Sys2Proof.Machine

/-- The comparison finds nothing where the output equals the input (R200). -/
theorem compareFrom_eq_nil {outCap : Nat} {m : Memory} : ∀ {i : Nat} {bs : List Byte},
    (∀ j, j < bs.length → outputAt outCap m (i + j) = bs[j]?) → compareFrom outCap m i bs = []
  | _, [], _ => rfl
  | i, b :: bs, h => by
    have hhead : outputAt outCap m i = some b := h 0 (Nat.zero_lt_succ _)
    rw [compareFrom, if_pos hhead]
    exact compareFrom_eq_nil fun j hj => by
      rw [Nat.add_assoc, Nat.add_comm 1 j]
      exact h (j + 1) (Nat.succ_lt_succ hj)

theorem compare_eq_nil {outCap : Nat} {m : Memory} {bs : List Byte} (hcap : bs.length ≤ outCap)
    (h : ∀ j, j < bs.length → m.read j = bs[j]?) : compare bs outCap m = [] :=
  compareFrom_eq_nil fun j hj => by
    rw [Nat.zero_add, outputAt, if_pos (Nat.lt_of_lt_of_le hj hcap)]
    exact h j hj

section
variable {a : RunArgs} (dc di word : List Access → Nat)

/-- The pump of a run through identity units begins with everything empty. -/
theorem relay_prologue {s : State} (hargs : s.args = a) (hfault : s.fault = .none) (hin : s.inCur = 0)
    (hout : s.outCur = 0) (hticks : s.ticks = 0) :
    Relay a .pump [] [] (s.prologue (identityEnv dc di word a.params)) where
  args := hargs
  phase := rfl
  running := (State.inRun_iff _).2 ⟨.inl rfl, hfault⟩
  atHead := rfl
  baseline := rfl
  drained := nofun
  inBound := by
    show s.inCur ≤ a.inLen
    omega
  order := by
    show s.outCur ≤ s.inCur
    omega
  unitC := rfl
  unitD := rfl
  slotC := .inl rfl
  slotD := .inl rfl
  inFlight := by
    show [] = (a.inBuf.take s.inCur).drop s.outCur
    simp [hin]
  stored := fun i hi => absurd (hout ▸ hi : i < 0) (Nat.not_lt_zero i)
  counted := by
    show s.ticks = s.inCur + 2 * s.outCur + 0
    omega

/-- A loop of a run without a budget goes on, tick by tick, until its condition is false: there are no more than three ticks
for each byte. -/
theorem Relay.loop_ends (ha : RoundTripArgs a) {ph : Phase} (m : Nat) :
    ∀ {cs ds : List Byte} {s : State}, Relay a ph cs ds s → 3 * a.inLen < s.ticks + m →
      ∃ cs' ds' t, Reaches (identityEnv dc di word a.params) s t ∧ Relay a ph cs' ds' t ∧ t.loopGoes = false := by
  induction m with
  | zero =>
    intro cs ds s h hm
    exact absurd h.ticks_le (Nat.not_le.2 hm)
  | succ m ih =>
    intro cs ds s h hm
    cases hg : s.loopGoes with
    | false => exact ⟨cs, ds, s, .refl _ s, h, hg⟩
    | true =>
      obtain ⟨_, _, ht, hticks⟩ := h.tick dc di word ha hg
      have hspent : s.budgetSpent = false := by rw [State.budgetSpent, h.args, ha.unbudgeted]
      obtain ⟨cs', ds', t, hreach, hend⟩ := ih ht (by omega)
      exact ⟨cs', ds', t, .trans ⟨3, threeStepsAreOneTick _ s h.atHead h.running hg hspent⟩ hreach, hend⟩

/-- The drain phase begins with what the pump left in flight. -/
theorem Relay.toDraining {cs ds : List Byte} {s : State} (h : Relay a .pump cs ds s) (hfed : s.inCur = a.inLen) :
    Relay a .draining cs ds { s with phase := .draining } :=
  { h with
    phase := rfl
    running := (State.inRun_iff _).2 ⟨.inr rfl, (s.inRun_iff.1 h.running).2⟩
    drained := fun _ => hfed }

/-- From the start of its pump a run through identity units ends DONE, three ticks for each byte, with its input stored. -/
theorem Relay.run_ends (ha : RoundTripArgs a) {cs ds : List Byte} {s : State} (h : Relay a .pump cs ds s) :
    ∃ t, Reaches (identityEnv dc di word a.params) s t ∧ t.seq = .idle ∧ t.finished ∧ t.ticks = 3 * a.inLen
      ∧ t.outCur = a.inLen ∧ (∀ i, i < a.inLen → t.outBuf.read i = a.inBuf[i]?) ∧ t.mismatches = some [] := by
  obtain ⟨cs, ds, u, hpump, hu, hend⟩ := h.loop_ends dc di word ha (3 * a.inLen + 1) (by omega)
  obtain ⟨hfed, -⟩ := hu.ended_of_not_loopGoes ha.awaited hend
  have hmid := stepIn_drainStart (identityEnv dc di word a.params) hu.atHead hu.running hend hu.phase
    (hu.args ▸ ha.drains)
  obtain ⟨cs, ds, v, hdrain, hv, hend⟩ :=
    (hu.toDraining hfed).loop_ends dc di word ha (3 * a.inLen + 1) (by omega)
  obtain ⟨hin, hout⟩ := hv.ended_of_not_loopGoes ha.awaited hend
  replace hout := hout rfl
  have hclose := stepIn_closeStart (identityEnv dc di word a.params) hv.atHead hv.running hend hv.phase
  obtain ⟨x, hx⟩ := Option.isSome_iff_exists.1 hv.baseline
  have hstored : ∀ i, i < a.inLen → v.outBuf.read i = a.inBuf[i]? := fun i hi => hv.stored i (hout.symm ▸ hi)
  refine ⟨_, hpump.trans <| (Reaches.of_step hmid).trans <| hdrain.trans <| (Reaches.of_step hclose).trans <|
    reaches_closeRun _ hx, rfl, ⟨rfl, (v.inRun_iff.1 hv.running).2⟩, ?_, hout, hstored, ?_⟩
  · show v.ticks = 3 * a.inLen
    have hlen := hv.length_inFlight
    have hcount := hv.counted
    omega
  · show some (compare v.args.inBuf v.args.outCap v.outBuf) = some []
    rw [hv.args, compare_eq_nil ha.room hstored]

end

/-- Settles O36: the pump and then the drain phase run until every byte is stored, which takes three ticks for each. -/
theorem identityUnitsRoundTrip : Obligations.IdentityUnitsRoundTrip := by
  unfold Obligations.IdentityUnitsRoundTrip
  intro p bytes inCap outCap dc di word s rest hp h8 hin hout hq hi hport
  let a : RunArgs := ⟨p, bytes, inCap, outCap, bytes.length, .drainToLength, none⟩
  have ha : RoundTripArgs a := ⟨hp, h8, hout, rfl, rfl, rfl⟩
  have hlegal : a.legal = true := a.legal_iff.2 ⟨hp, hin, hout⟩
  have hstart := stepIn_runStart (identityEnv dc di word p) hq hi hport hlegal
  have hrelay : Relay a .pump [] [] _ :=
    relay_prologue dc di word (s := { s with port := rest }.startRun a) rfl rfl rfl rfl rfl
  obtain ⟨t, hrun, ht⟩ := hrelay.run_ends dc di word ha
  obtain ⟨n, hn⟩ := (Reaches.of_step hstart).trans <| (reaches_prologue _ rfl).trans hrun
  exact ⟨n, t, hn, ht⟩

end Sys2Proof.Machine
end

section
/-! The performance counters: their advance before every access (R181) and the delta of two samples (R185). -/

namespace Sys2Proof.Machine

/-! ### The advance before an access -/

/-- Settles O2: every access begins with `tickOver`, which advances both counters; after it only a write of a counter's own
register changes that counter, and a read of a counter shows the advanced value. -/
theorem countersAdvanceBeforeEveryAccess : Obligations.CountersAdvanceBeforeEveryAccess := by
  unfold Obligations.CountersAdvanceBeforeEveryAccess
  intro p e w x c i
  have hc : (w.tickOver p e).cyc = c := w.tickOver_cyc p e
  have hi : (w.tickOver p e).ins = i := w.tickOver_ins p e
  rw [← hc, ← hi]
  exact ⟨fun r => ⟨w.regRead_cyc p e r, w.regRead_ins p e r⟩, w.regRead_cycle_word p e, w.regRead_instr_word p e,
    fun r => ⟨w.regWrite_cyc p e r x, w.regWrite_ins p e r x⟩⟩

/-! ### The difference of two counts -/

/-- The `2 ^ n` added before the subtraction keeps it above zero and is nothing modulo `2 ^ n`. -/
theorem natCast_trunc_add_sub {n a : Nat} (ha : a < 2 ^ n) (b : Nat) :
    (trunc n (b + 2 ^ n - a) : Int) = ((b : Int) - a) % 2 ^ n := by
  have hsub : ((b + 2 ^ n - a : Nat) : Int) = (b : Int) - a + 2 ^ n := by
    rw [Nat.cast_sub (by omega)]
    push_cast
    ring
  rw [trunc_eq, Int.natCast_emod, hsub, Nat.cast_pow, Nat.cast_ofNat, Int.add_emod_right]

/-- A count that moved on by less than `2 ^ n` differs by what it moved, whether it wrapped or not. -/
theorem trunc_sub_of_advanced {n a k : Nat} (ha : a < 2 ^ n) (hk : k < 2 ^ n) :
    trunc n ((a + k) % 2 ^ n + 2 ^ n - a) = k := by
  apply Int.ofNat.inj
  calc (trunc n ((a + k) % 2 ^ n + 2 ^ n - a) : Int)
    _ = (((a + k) % 2 ^ n : Nat) - a : Int) % 2 ^ n := natCast_trunc_add_sub ha _
    _ = ((a + k : Int) - a) % 2 ^ n := by push_cast; exact Int.emod_sub_emod _ _ _
    _ = (k : Int) % 2 ^ n := by rw [add_sub_cancel_left]
    _ = k := Int.emod_eq_of_lt (Int.natCast_nonneg k) (by exact_mod_cast hk)

/-! ### The delta of two samples -/

/-- Between a sample and one taken fewer than `2^W` cycles and instructions later, the delta is what passed (R185). -/
theorem pcDelta_of_advanced {p : Params} {a : Sample} (ha : a.fits p) {n m : Nat} (hn : n < 2 ^ p.W) (hm : m < 2 ^ p.W) :
    pcDelta p a ⟨(a.cycleCount + n) % 2 ^ p.W, (a.instructionCount + m) % 2 ^ p.W⟩ = ⟨n, m⟩ := by
  obtain ⟨hcycle, hinstr⟩ := ha
  rw [pcDelta, trunc_sub_of_advanced hcycle hn, trunc_sub_of_advanced hinstr hm]

/-- Equal samples are samples between which nothing passed. -/
theorem pcDelta_self {p : Params} {a : Sample} (ha : a.fits p) : pcDelta p a a = ⟨0, 0⟩ := by
  have h := pcDelta_of_advanced ha (Nat.two_pow_pos p.W) (Nat.two_pow_pos p.W)
  obtain ⟨hcycle, hinstr⟩ := ha
  rwa [Nat.add_zero, Nat.add_zero, Nat.mod_eq_of_lt hcycle, Nat.mod_eq_of_lt hinstr] at h

/-- Settles O47: both counts of the delta are one modular difference, which undoes an advance of less than `2^W`. -/
theorem deltaIsModular : Obligations.DeltaIsModular := by
  unfold Obligations.DeltaIsModular
  intro p a b ha _
  have ⟨hcycle, hinstr⟩ := ha
  exact ⟨natCast_trunc_add_sub hcycle _, natCast_trunc_add_sub hinstr _, pcDelta_self ha,
    fun _ _ hn hm => pcDelta_of_advanced ha hn hm⟩

end Sys2Proof.Machine
end

section
/-! What `COMPARE` lists (R200) and the laws of the list (R201). -/

namespace Sys2Proof.Machine

variable {outCap : Nat} {m : Memory}

/-! ### The records of the list -/

/-- The first input of the rest has a record exactly when the output differs from it (R200). -/
theorem mem_compareFrom_cons {r : Mismatch} {i : Nat} {b : Byte} {bs : List Byte} :
    r ∈ compareFrom outCap m i (b :: bs) ↔
      outputAt outCap m i ≠ some b ∧ r = ⟨i, b, outputAt outCap m i⟩ ∨ r ∈ compareFrom outCap m (i + 1) bs := by
  rw [compareFrom]
  split
  next heq => simp [heq]
  next hne => simp [hne]

/-- The records from index `i` on are those of the differing positions `j` after it, with both bytes in them (R200). -/
theorem mem_compareFrom {r : Mismatch} {i : Nat} {bs : List Byte} :
    r ∈ compareFrom outCap m i bs ↔
      ∃ j, r.index = i + j ∧ bs[j]? = some r.expected ∧ r.actual = outputAt outCap m (i + j)
        ∧ outputAt outCap m (i + j) ≠ bs[j]? := by
  induction bs generalizing i with
  | nil => simp [compareFrom]
  | cons b bs ih =>
    rw [mem_compareFrom_cons, ih]
    constructor
    · rintro (⟨hne, rfl⟩ | ⟨j, hrec⟩)
      · exact ⟨0, rfl, rfl, rfl, hne⟩
      · rw [Nat.add_right_comm] at hrec
        exact ⟨j + 1, hrec⟩
    · rintro ⟨_ | j, hindex, hexp, hact, hne⟩
      · obtain ⟨k, x, a⟩ := r
        obtain rfl : k = i := hindex
        obtain rfl : b = x := Option.some.inj hexp
        exact .inl ⟨hne, congrArg _ hact⟩
      · refine .inr ⟨j, ?_⟩
        rw [Nat.add_right_comm]
        exact ⟨hindex, hexp, hact, hne⟩

/-- The indices of the records rise strictly: the record of the first input, where there is one, precedes the others. -/
theorem pairwise_compareFrom (i : Nat) (bs : List Byte) :
    (compareFrom outCap m i bs).Pairwise fun x y => x.index < y.index := by
  induction bs generalizing i with
  | nil => exact .nil
  | cons b bs ih =>
    rw [compareFrom]
    split
    · exact ih (i + 1)
    · refine .cons (fun r hr => ?_) (ih (i + 1))
      obtain ⟨j, hindex, -⟩ := mem_compareFrom.mp hr
      show i < r.index
      omega

/-- A record is listed exactly when its index is one where the output differs from the input, and it holds the input's byte
and the output's entry there (R200). -/
theorem mem_compare {r : Mismatch} {inBuf : List Byte} :
    r ∈ compare inBuf outCap m ↔
      inBuf[r.index]? = some r.expected ∧ r.actual = outputAt outCap m r.index
        ∧ outputAt outCap m r.index ≠ inBuf[r.index]? := by
  simp [compare, mem_compareFrom]

/-- An index of the input has a record exactly when the output differs there (R201). -/
theorem exists_mem_compare_iff {inBuf : List Byte} {k : Nat} (hk : k < inBuf.length) :
    (∃ r ∈ compare inBuf outCap m, r.index = k) ↔ outputAt outCap m k ≠ inBuf[k]? := by
  constructor
  · rintro ⟨r, hr, rfl⟩
    obtain ⟨-, -, hne⟩ := mem_compare.mp hr
    exact hne
  · intro hne
    exact ⟨⟨k, inBuf[k], outputAt outCap m k⟩, mem_compare.mpr ⟨List.getElem?_eq_getElem hk, rfl, hne⟩, rfl⟩

/-- Nothing is listed exactly when the output equals the input at every index of the input (R201). -/
theorem compare_eq_nil_iff {inBuf : List Byte} :
    compare inBuf outCap m = [] ↔ ∀ i, i < inBuf.length → outputAt outCap m i = inBuf[i]? := by
  constructor
  · intro hnil i hi
    by_contra hne
    obtain ⟨r, hr, -⟩ := (exists_mem_compare_iff hi).mpr hne
    simp [hnil] at hr
  · intro h
    exact compareFrom_eq_nil fun j hj => by rw [Nat.zero_add, h j hj]

/-! ### The laws -/

/-- Settles O52: `mem_compare` says which records are listed, and the order of the list is that of the inputs. -/
theorem compareLaws : Obligations.CompareLaws := by
  unfold Obligations.CompareLaws
  intro inBuf outCap m
  refine ⟨compare_eq_nil_iff, pairwise_compareFrom 0 inBuf, fun r hr => ?_, fun _ hk => exists_mem_compare_iff hk⟩
  obtain ⟨hexp, hact, -⟩ := mem_compare.mp hr
  obtain ⟨hlt, -⟩ := List.getElem?_eq_some_iff.mp hexp
  exact ⟨hlt, hexp, hact⟩

end Sys2Proof.Machine
end

section
/-! Undefined accesses (R57, R93, R214): the decoder names every command outside the map, and a step of a run decodes no
access command, so the refusal answers a host only. -/

namespace Sys2Proof

/-! ### Commands outside the map -/

theorem ReadReg.mem_all (r : ReadReg) : r ∈ [ReadReg.cStat, .dStat, .cRst, .dRst, .cycle, .instr] := by cases r <;> decide

theorem WriteReg.mem_all (r : WriteReg) : r ∈ [WriteReg.cCtrl, .dCtrl, .cycle, .instr] := by cases r <;> decide

/-- The map allows no read of an address exactly when it is the address of no readable register (R51). -/
theorem readRegAt_eq_none_iff (p : Params) (a : Nat) : readRegAt p a = none ↔ ∀ r : ReadReg, r.addr p ≠ a := by
  simp only [readRegAt, List.find?_eq_none, beq_iff_eq]
  exact ⟨fun h r => h r r.mem_all, fun h r _ => h r⟩

/-- The map allows no write of an address exactly when it is the address of no writable register (R51). -/
theorem writeRegAt_eq_none_iff (p : Params) (a : Nat) : writeRegAt p a = none ↔ ∀ r : WriteReg, r.addr p ≠ a := by
  simp only [writeRegAt, List.find?_eq_none, beq_iff_eq]
  exact ⟨fun h r => h r r.mem_all, fun h r _ => h r⟩

/-- With or without a data word, a read outside the map is undefined (R57). -/
theorem decodeRead_undefined {p : Params} {a : Nat} (data : Option Nat) (h : ∀ r : ReadReg, r.addr p ≠ a) :
    decodeRead p a data = .error (.undefinedAccess false a) := by
  simp only [decodeRead, (readRegAt_eq_none_iff p a).2 h]

/-- With or without a data word, a write outside the map is undefined (R57). -/
theorem decodeWrite_undefined {p : Params} {a : Nat} (data : Option Nat) (h : ∀ r : WriteReg, r.addr p ≠ a) :
    decodeWrite p a data = .error (.undefinedAccess true a) := by
  simp only [decodeWrite, (writeRegAt_eq_none_iff p a).2 h]

/-- The top bit of a number of `1 + n` bits says whether it reaches `2^n`. -/
theorem flagOf_top {n v : Nat} (h : v < 2 ^ (1 + n)) : flagOf v n = decide (2 ^ n ≤ v) := by
  have hquot : v / 2 ^ n < 2 := Nat.div_lt_of_lt_mul (by rwa [Nat.add_comm, Nat.pow_succ] at h)
  have hpos : 0 < v / 2 ^ n ↔ 2 ^ n ≤ v := Nat.div_pos_iff.trans (by simp)
  rw [flagOf_eq, decide_eq_decide, ← hpos]
  generalize v / 2 ^ n = q at hquot
  omega

/-- A command of `1 + ADDR_W` bits is a write from `2^ADDR_W` on and a read below; the rest of it is the address (R90). -/
theorem decodeAccess_of_lt {p : Params} {cmd : Nat} (data : Option Nat) (h : cmd < 2 ^ (1 + p.addrW)) :
    decodeAccess p cmd data = if 2 ^ p.addrW ≤ cmd then decodeWrite p (cmd % 2 ^ p.addrW) data
      else decodeRead p (cmd % 2 ^ p.addrW) data := by
  simp only [decodeAccess, if_pos h, flagOf_top h, decide_eq_true_eq, trunc_eq]

/-- A command that is `dir ++ addr` of no register of its direction is undefined (R57, R93 (1)). -/
theorem decodeAccess_undefined {p : Params} {cmd : Nat} (data : Option Nat) (h : cmd < 2 ^ (1 + p.addrW))
    (hread : ∀ r : ReadReg, cmd ≠ r.addr p) (hwrite : ∀ r : WriteReg, cmd ≠ 2 ^ p.addrW + r.addr p) :
    decodeAccess p cmd data = .error (.undefinedAccess (decide (2 ^ p.addrW ≤ cmd)) (cmd % 2 ^ p.addrW)) := by
  rw [decodeAccess_of_lt data h]
  by_cases hdir : 2 ^ p.addrW ≤ cmd
  · have haddr : cmd = 2 ^ p.addrW + cmd % 2 ^ p.addrW := by
      rw [Nat.mod_eq_sub_mod hdir, Nat.mod_eq_of_lt (by rw [Nat.pow_add] at h; omega)]
      omega
    rw [if_pos hdir, decide_eq_true hdir]
    exact decodeWrite_undefined data fun r hr => hwrite r (by rw [hr]; exact haddr)
  · rw [if_neg hdir, decide_eq_false hdir, Nat.mod_eq_of_lt (Nat.lt_of_not_le hdir)]
    exact decodeRead_undefined data fun r hr => hread r hr.symm

end Sys2Proof

namespace Sys2Proof.Machine

/-! ### What a step refuses -/

/-- A step is refused by the fetch or by the instruction fetched. -/
theorem stepWith_refused {ex : Instr → State → Result} {s : State} {r : Refusal} :
    stepWith ex s = .refused r ↔
      s.nextOp = .refuse r ∨ ∃ i, s.nextOp = .instr i ∧ ex i s.issued = .refused r := by
  simp only [stepWith]
  cases h : s.nextOp with
  | instr i => cases hx : ex i s.issued <;> simp [hx]
  | silent u => simp
  | fault f => simp
  | refuse r' => simp

/-- Between runs a host's operation that is no instruction is refused for the decoder's reason (R57, R93). -/
theorem stepWith_badOp {ex : Instr → State → Result} {s : State} {f : Frame} {rest : List HostReq} {r : DecodeError}
    (hq : s.seq = .idle) (hp : s.port = .op f :: rest) (hd : decode s.params f = .error r) :
    stepWith ex s = .refused (refusalOf r) :=
  stepWith_refused.2 (.inl (by simp only [State.nextOp, hq, State.serveHost, hp, fetchFrame, hd]))

/-- A tick row refuses under one name only. -/
theorem State.tickRow_refused_eq {s : State} {t : BitVec 5} {o : Cst → Dst → State → State} {r : Refusal}
    (h : s.tickRow t o = .refused r) : r = .tickConditionFalse := by
  cases hc : s.cst with
  | none => simpa [State.tickRow, hc, eq_comm] using h
  | some c =>
    cases hd : s.dst with
    | none => simpa [State.tickRow, hc, hd, eq_comm] using h
    | some d =>
      cases hr : s.tickReady t with
      | false => simpa [State.tickRow_refused hr, eq_comm] using h
      | true => simp [State.tickRow_of hc hd hr] at h

/-- The only instructions refused are the tick rows, whose condition does not hold then. -/
theorem exec_refused_eq {i : Instr} {s : State} {r : Refusal} (h : exec i s = .refused r) : r = .tickConditionFalse := by
  cases i
  case tickFeed | tickXferA | tickXferB | tickDrainA | tickDrainB | tickDrainC | tickDrainD =>
    exact State.tickRow_refused_eq h
  case tickIdleA | tickIdleB | tickIdleC | tickIdleD => exact State.tickRow_refused_eq (o := fun _ _ s => s) h
  all_goals cases h

/-- The head of a loop fetches no frame, so it refuses nothing. -/
theorem State.atLoopHead_ne_refuse (s : State) (r : Refusal) : s.atLoopHead ≠ .refuse r := by
  by_cases hp : s.phase = .pump ∨ s.phase = .draining
  · rw [State.atLoopHead_eq s hp, State.beginTick]
    split_ifs <;> nofun
  · rw [State.atLoopHead_fault s hp]
    nofun

/-- During a run the only frame fetched is a decode vector, which always stands for a row (R91). -/
theorem State.nextOp_ne_refuse {s : State} (hq : s.seq ≠ .idle) (r : Refusal) : s.nextOp ≠ .refuse r := by
  cases hseq : s.seq <;> simp only [State.nextOp, hseq]
  case idle => exact absurd hseq hq
  case loopHead => exact s.atLoopHead_ne_refuse r
  case decide =>
    simp only [State.fetchOutcome, fetchFrame, decode]
    split <;> nofun
  case finish => split <;> nofun
  all_goals nofun

/-- A step of a run is refused for a tick row only, never for an access (R214). -/
theorem step_refused_of_ne_idle {s : State} {r : Refusal} (hq : s.seq ≠ .idle) (h : step s = .refused r) :
    r = .tickConditionFalse := by
  obtain hn | ⟨i, -, hx⟩ := stepWith_refused.1 h
  · exact absurd hn (State.nextOp_ne_refuse hq r)
  · exact exec_refused_eq hx

/-- Settles O3: the ten commands of the map are the reads and writes of its registers, and the decoder's reason is the
step's refusal; inside a run a step has no such reason to give. -/
theorem undefinedAccessRefused : Obligations.UndefinedAccessRefused := by
  unfold Obligations.UndefinedAccessRefused
  refine ⟨rfl, ?_, fun s write addr hq h => ?_⟩
  · intro s cmd data rest p hq hp hlt hmap
    have hread : ∀ r : ReadReg, cmd ≠ r.addr p := by
      rintro r rfl
      exact hmap (by cases r <;> simp [ReadReg.addr])
    have hwrite : ∀ r : WriteReg, cmd ≠ 2 ^ p.addrW + r.addr p := by
      rintro r rfl
      exact hmap (by cases r <;> simp [WriteReg.addr])
    exact stepWith_badOp hq hp (decodeAccess_undefined data hlt hread hwrite)
  · cases step_refused_of_ne_idle hq h

end Sys2Proof.Machine
end

section
/-! The start of a run (R242). -/

namespace Sys2Proof.Machine

/-- The machine's own step is the step in its free environment (R138). -/
theorem step_eq_stepIn_env : step = stepIn Config.env := by
  have hexec : exec = execIn Config.env := funext fun i => funext fun s => (execIn_env i s).symm
  exact congrArg stepWith hexec

/-- Counters that are words of the run's `W` are not changed by the start of the run (R180). -/
theorem World.resize_cyc_of_lt {p : Params} {w : World} (h : w.cyc < 2 ^ p.W) : (w.resize p).cyc = w.cyc := trunc_of_lt h

theorem World.resize_ins_of_lt {p : Params} {w : World} (h : w.ins < 2 ^ p.W) : (w.resize p).ins = w.ins := trunc_of_lt h

/-- Settles O29: the step is `State.startRun`, which touches the world only to cut the counters to the run's `W`. -/
theorem runStartInitialises : Obligations.RunStartInitialises := by
  unfold Obligations.RunStartInitialises
  intro s a rest hq hi hp hl
  have hstep : step s = .next ({ s with port := rest }.startRun a) := by
    rw [step_eq_stepIn_env]
    exact stepIn_runStart Config.env hq hi hp hl
  exact ⟨_, hstep, State.startRun_inCur .., State.startRun_outCur .., State.startRun_ticks .., State.startRun_fault ..,
    Memory.read_nil, State.startRun_args .., State.startRun_port .., State.startRun_seq .., World.resize_trace ..,
    World.resize_unitC .., World.resize_unitD .., World.resize_cyc_of_lt, World.resize_ins_of_lt⟩

end Sys2Proof.Machine
end

section
/-! Decoding and encoding are inverse (R80, R90, R91, R96): the map's registers are found by their addresses, the short
forms by their patterns, the tick rows by their flags. -/

namespace Sys2Proof

/-! ### Registers and their addresses -/

/-- The readable registers' addresses stand among the eight of R9. -/
theorem ReadReg.addrs_sublist (p : Params) :
    ([ReadReg.cStat, .dStat, .cRst, .dRst, .cycle, .instr].map (ReadReg.addr p)).Sublist p.addresses :=
  .cons _ (.cons _ (.refl _))

/-- The writable registers' addresses stand among the eight of R9. -/
theorem WriteReg.addrs_sublist (p : Params) :
    ([WriteReg.cCtrl, .dCtrl, .cycle, .instr].map (WriteReg.addr p)).Sublist p.addresses :=
  .cons_cons _ (.cons_cons _ (.cons _ (.cons _ (.cons _ (.cons _ (.refl _))))))

theorem ReadReg.addr_lt {p : Params} (h : p.legal = true) (r : ReadReg) : r.addr p < 2 ^ p.addrW :=
  (Params.legal_addresses h).2 _ ((ReadReg.addrs_sublist p).subset (List.mem_map_of_mem r.mem_all))

theorem WriteReg.addr_lt {p : Params} (h : p.legal = true) (r : WriteReg) : r.addr p < 2 ^ p.addrW :=
  (Params.legal_addresses h).2 _ ((WriteReg.addrs_sublist p).subset (List.mem_map_of_mem r.mem_all))

/-- Two readable registers never share an address (R9). -/
theorem ReadReg.addr_inj {p : Params} (h : p.legal = true) {r r' : ReadReg} (heq : r.addr p = r'.addr p) : r = r' :=
  List.inj_on_of_nodup_map ((Params.legal_addresses h).1.sublist (ReadReg.addrs_sublist p)) r.mem_all r'.mem_all heq

/-- Two writable registers never share an address (R9). -/
theorem WriteReg.addr_inj {p : Params} (h : p.legal = true) {r r' : WriteReg} (heq : r.addr p = r'.addr p) : r = r' :=
  List.inj_on_of_nodup_map ((Params.legal_addresses h).1.sublist (WriteReg.addrs_sublist p)) r.mem_all r'.mem_all heq

theorem addr_of_readRegAt {p : Params} {a : Nat} {r : ReadReg} (h : readRegAt p a = some r) : r.addr p = a := by
  simpa using List.find?_some h

theorem addr_of_writeRegAt {p : Params} {a : Nat} {r : WriteReg} (h : writeRegAt p a = some r) : r.addr p = a := by
  simpa using List.find?_some h

theorem readRegAt_addr {p : Params} (h : p.legal = true) (r : ReadReg) : readRegAt p (r.addr p) = some r := by
  cases hfind : readRegAt p (r.addr p) with
  | none => exact absurd rfl ((readRegAt_eq_none_iff p _).1 hfind r)
  | some r' => rw [ReadReg.addr_inj h (addr_of_readRegAt hfind)]

theorem writeRegAt_addr {p : Params} (h : p.legal = true) (r : WriteReg) : writeRegAt p (r.addr p) = some r := by
  cases hfind : writeRegAt p (r.addr p) with
  | none => exact absurd rfl ((writeRegAt_eq_none_iff p _).1 hfind r)
  | some r' => rw [WriteReg.addr_inj h (addr_of_writeRegAt hfind)]

/-! ### Access commands -/

theorem accessCmd_of_lt {p : Params} {a : Nat} (w : Bool) (h : a < 2 ^ p.addrW) :
    accessCmd p w a = w.toNat * 2 ^ p.addrW + a := by
  rw [accessCmd, trunc_of_lt h, Nat.shiftLeft_eq]

theorem decodeAccess_read {p : Params} {a : Nat} (data : Option Nat) (h : a < 2 ^ p.addrW) :
    decodeAccess p (accessCmd p false a) data = decodeRead p a data := by
  have hcmd : accessCmd p false a = a := by rw [accessCmd_of_lt _ h, Bool.toNat_false, Nat.zero_mul, Nat.zero_add]
  have hlt : a < 2 ^ (1 + p.addrW) := Nat.lt_of_lt_of_le h (Nat.pow_le_pow_right (by decide) (by omega))
  rw [hcmd, decodeAccess_of_lt data hlt, if_neg (Nat.not_le.2 h), Nat.mod_eq_of_lt h]

theorem decodeAccess_write {p : Params} {a : Nat} (data : Option Nat) (h : a < 2 ^ p.addrW) :
    decodeAccess p (accessCmd p true a) data = decodeWrite p a data := by
  have hcmd : accessCmd p true a = 2 ^ p.addrW + a := by rw [accessCmd_of_lt _ h, Bool.toNat_true, Nat.one_mul]
  have hlt : 2 ^ p.addrW + a < 2 ^ (1 + p.addrW) := by
    rw [Nat.pow_add]
    omega
  rw [hcmd, decodeAccess_of_lt data hlt, if_pos (Nat.le_add_right _ _), Nat.add_mod_left, Nat.mod_eq_of_lt h]

/-- A number of `1 + ADDR_W` bits is the command of its direction and its address (R90). -/
theorem accessCmd_of_cmd {p : Params} {cmd : Nat} (h : cmd < 2 ^ (1 + p.addrW)) :
    accessCmd p (decide (2 ^ p.addrW ≤ cmd)) (cmd % 2 ^ p.addrW) = cmd := by
  rw [accessCmd_of_lt _ (Nat.mod_lt _ (Nat.two_pow_pos _))]
  by_cases hdir : 2 ^ p.addrW ≤ cmd
  · rw [decide_eq_true hdir, Nat.mod_eq_sub_mod hdir, Nat.mod_eq_of_lt (by rw [Nat.pow_add] at h; omega),
      Bool.toNat_true]
    omega
  · rw [decide_eq_false hdir, Nat.mod_eq_of_lt (Nat.lt_of_not_le hdir), Bool.toNat_false]
    omega

theorem checkWord_of_lt {p : Params} {w : Nat} (h : w < 2 ^ p.W) : checkWord p w = .ok w := if_pos h

theorem checkWord_ok {p : Params} {w v : Nat} (h : checkWord p w = .ok v) : w = v ∧ v < 2 ^ p.W := by
  simp only [checkWord] at h
  split at h <;> cases h
  next hlt => exact ⟨rfl, hlt⟩

@[simp] theorem encode_readInstr (p : Params) (r : ReadReg) : encode p (readInstr r) = encodeRead p r := by cases r <;> rfl

@[simp] theorem encode_writeInstr (p : Params) (r : WriteReg) (v : Nat) :
    encode p (writeInstr v r) = encodeWrite p r v := by cases r <;> rfl

@[simp] theorem wellFormed_readInstr (p : Params) (r : ReadReg) : (readInstr r).wellFormed p = true := by cases r <;> rfl

@[simp] theorem wellFormed_writeInstr (p : Params) (r : WriteReg) (v : Nat) :
    (writeInstr v r).wellFormed p = decide (v < 2 ^ p.W) := by cases r <;> rfl

theorem decode_encodeRead {p : Params} (h : p.legal = true) (r : ReadReg) :
    decode p (encodeRead p r) = .ok (readInstr r) := by
  simp only [encodeRead, decode, decodeAccess_read none (r.addr_lt h), decodeRead, readRegAt_addr h]

theorem decode_encodeWrite {p : Params} (h : p.legal = true) (r : WriteReg) {v : Nat} (hv : v < 2 ^ p.W) :
    decode p (encodeWrite p r v) = .ok (writeInstr v r) := by
  simp only [encodeWrite, decode, decodeAccess_write (some v) (r.addr_lt h), decodeWrite, writeRegAt_addr h,
    checkWord_of_lt hv, Except.map]

theorem decodeRead_ok {p : Params} {a : Nat} {data : Option Nat} {i : Instr} (h : decodeRead p a data = .ok i) :
    ∃ r : ReadReg, r.addr p = a ∧ data = none ∧ i = readInstr r := by
  simp only [decodeRead] at h
  split at h <;> cases h
  next r hr => exact ⟨r, addr_of_readRegAt hr, rfl, rfl⟩

theorem decodeWrite_ok {p : Params} {a : Nat} {data : Option Nat} {i : Instr} (h : decodeWrite p a data = .ok i) :
    ∃ (r : WriteReg) (v : Nat), r.addr p = a ∧ data = some v ∧ v < 2 ^ p.W ∧ i = writeInstr v r := by
  simp only [decodeWrite] at h
  split at h
  · next r v hr =>
    cases hc : checkWord p v with
    | error e => rw [hc] at h; cases h
    | ok x =>
      obtain ⟨rfl, hv⟩ := checkWord_ok hc
      rw [hc] at h
      cases h
      exact ⟨r, v, addr_of_writeRegAt hr, rfl, hv, rfl⟩
  · cases h
  · cases h

/-- A command that decodes is the command of the register its instruction accesses (R90). -/
theorem encode_of_decodeAccess {p : Params} {cmd : Nat} {data : Option Nat} {i : Instr}
    (h : decodeAccess p cmd data = .ok i) : encode p i = .access cmd data ∧ i.wellFormed p = true := by
  by_cases hlt : cmd < 2 ^ (1 + p.addrW)
  · have hcmd := accessCmd_of_cmd hlt
    rw [decodeAccess_of_lt data hlt] at h
    split at h
    · next hdir =>
      obtain ⟨r, v, ha, rfl, hv, rfl⟩ := decodeWrite_ok h
      rw [decide_eq_true hdir, ← ha] at hcmd
      rw [encode_writeInstr, encodeWrite, hcmd, wellFormed_writeInstr]
      exact ⟨rfl, decide_eq_true hv⟩
    · next hdir =>
      obtain ⟨r, ha, rfl, rfl⟩ := decodeRead_ok h
      rw [decide_eq_false hdir, ← ha] at hcmd
      rw [encode_readInstr, encodeRead, hcmd]
      exact ⟨rfl, wellFormed_readInstr p r⟩
  · rw [decodeAccess, if_neg hlt] at h
    cases h

/-! ### The patterns of the short forms -/

/-- The pattern of `C.FEED`: no bit above the byte, and the flags of the form below it (R96, R98). -/
theorem isFeedWord_iff {p : Params} (h : p.legal = true) {w : Nat} (hw : w < 2 ^ p.W) :
    isFeedWord p w = true ↔ w < 2 ^ 11 ∧ w % 8 = 2 := by
  obtain ⟨hW, -⟩ := Params.legal_bounds h
  have hhigh : w / 2 ^ 11 < 2 ^ (p.W - 1 + 1 - 11) := by
    rw [show p.W - 1 + 1 - 11 = p.W - 11 by omega]
    exact Nat.div_lt_of_lt_mul (by rwa [← two_pow_split (show 11 ≤ p.W by omega)])
  simp only [isFeedWord, fieldOf_eq, Bool.and_eq_true, beq_iff_eq, Nat.mod_eq_of_lt hhigh]
  omega

/-- The pattern of `D.INPUT`: no bit above the symbol, and the flags of the form below it (R96, R98). -/
theorem isInputWord_iff {p : Params} (h : p.legal = true) {w : Nat} (hw : w < 2 ^ p.W) :
    isInputWord p w = true ↔ w < 2 ^ (2 + p.dcInW) ∧ w % 4 = 1 := by
  obtain ⟨hW, -, -, -, hdc⟩ := Params.legal_bounds h
  have hhigh : w / 2 ^ (2 + p.dcInW) < 2 ^ (p.W - 1 + 1 - (2 + p.dcInW)) := by
    rw [show p.W - 1 + 1 - (2 + p.dcInW) = p.W - (2 + p.dcInW) by omega]
    exact Nat.div_lt_of_lt_mul (by rwa [← two_pow_split (show 2 + p.dcInW ≤ p.W by omega)])
  simp only [isInputWord, fieldOf_eq, Bool.and_eq_true, beq_iff_eq, Nat.mod_eq_of_lt hhigh, Nat.div_eq_zero_iff,
    Nat.pow_zero, Nat.div_one]
  have hpos := Nat.two_pow_pos (2 + p.dcInW)
  omega

/-- The feed word of a byte, as arithmetic. -/
theorem feedWord_eq (b : Byte) : (b.toNat <<< 3) + 2 = 8 * b.toNat + 2 := by rw [Nat.shiftLeft_eq]; omega

theorem decodeControlC_feed {p : Params} (h : p.legal = true) (b : Byte) :
    decodeControlC p (encCctl p (feedRecord b)) = .ok (.cFeed b) := by
  have hlt := encCctl_lt p (feedRecord b)
  have hb := b.isLt
  rw [encCctl_feedRecord h, feedWord_eq] at hlt ⊢
  have hfield : fieldOf (8 * b.toNat + 2) 10 3 = b.toNat := by
    rw [fieldOf_eq]
    omega
  rw [decodeControlC, if_pos ((isFeedWord_iff h hlt).2 (by omega)), hfield, BitVec.ofNat_toNat, BitVec.setWidth_eq]

theorem decodeControlC_ack {p : Params} (h : p.legal = true) : decodeControlC p (encCctl p ackRecordC) = .ok .cAck := by
  have hlt := encCctl_lt p ackRecordC
  rw [encCctl_ackRecordC h] at hlt ⊢
  rw [decodeControlC, if_neg (by rw [isFeedWord_iff h hlt]; omega), if_pos rfl]

theorem decodeControlD_input {p : Params} (h : p.legal = true) {x : Nat} (hx : x < 2 ^ p.dcInW) :
    decodeControlD p (encDctl p (inputRecord x)) = .ok (.dInput x) := by
  have hlt := encDctl_lt p (inputRecord x)
  have hword : ((x % 2 ^ p.dcInW) <<< 2) + 1 = 4 * x + 1 := by
    rw [Nat.mod_eq_of_lt hx, Nat.shiftLeft_eq]
    omega
  rw [encDctl_inputRecord h, hword] at hlt ⊢
  have hfield : fieldOf (4 * x + 1) (2 + p.dcInW - 1) 2 = x := by
    rw [fieldOf_eq, show 2 + p.dcInW - 1 + 1 - 2 = p.dcInW by omega, show (4 * x + 1) / 2 ^ 2 = x by omega,
      Nat.mod_eq_of_lt hx]
  have hpow : 2 ^ (2 + p.dcInW) = 4 * 2 ^ p.dcInW := Nat.pow_add ..
  rw [decodeControlD, if_pos ((isInputWord_iff h hlt).2 (by omega)), hfield]

theorem decodeControlD_ack {p : Params} (h : p.legal = true) : decodeControlD p (encDctl p ackRecordD) = .ok .dAck := by
  have hlt := encDctl_lt p ackRecordD
  rw [encDctl_ackRecordD h] at hlt ⊢
  rw [decodeControlD, if_neg (by rw [isInputWord_iff h hlt]; omega), if_pos rfl]

/-- A word that is a short form of the Compressor's is the word of that form (R96). -/
theorem encode_of_decodeControlC {p : Params} (h : p.legal = true) {w : Nat} (hw : w < 2 ^ p.W) {i : Instr}
    (hi : decodeControlC p w = .ok i) : encode p i = .control .compressor w ∧ i.wellFormed p = true := by
  simp only [decodeControlC] at hi
  split at hi
  · next hfeed =>
    cases hi
    obtain ⟨hlt, hflags⟩ := (isFeedWord_iff h hw).1 hfeed
    have hbyte : (BitVec.ofNat 8 (fieldOf w 10 3)).toNat = w / 8 := by
      rw [BitVec.toNat_ofNat, fieldOf_eq]
      omega
    have hword : 8 * (w / 8) + 2 = w := by omega
    exact ⟨by rw [encode, encCctl_feedRecord h, feedWord_eq, hbyte, hword], rfl⟩
  · split at hi <;> cases hi
    next hack => exact ⟨by rw [encode, encCctl_ackRecordC h, hack], rfl⟩

/-- A word that is a short form of the Decompressor's is the word of that form (R96). -/
theorem encode_of_decodeControlD {p : Params} (h : p.legal = true) {w : Nat} (hw : w < 2 ^ p.W) {i : Instr}
    (hi : decodeControlD p w = .ok i) : encode p i = .control .decompressor w ∧ i.wellFormed p = true := by
  simp only [decodeControlD] at hi
  split at hi
  · next hinput =>
    cases hi
    obtain ⟨hlt, hflags⟩ := (isInputWord_iff h hw).1 hinput
    have hpow : 2 ^ (2 + p.dcInW) = 4 * 2 ^ p.dcInW := Nat.pow_add ..
    have hfits : w / 4 < 2 ^ p.dcInW := by omega
    have hfield : fieldOf w (2 + p.dcInW - 1) 2 = w / 4 := by
      rw [fieldOf_eq, show 2 + p.dcInW - 1 + 1 - 2 = p.dcInW by omega]
      exact Nat.mod_eq_of_lt hfits
    have hword : 4 * (w / 4) + 1 = w := by omega
    rw [hfield]
    refine ⟨?_, decide_eq_true hfits⟩
    rw [encode, encDctl_inputRecord h, Nat.mod_eq_of_lt hfits, Nat.shiftLeft_eq, Nat.mul_comm]
    exact congrArg _ hword
  · split at hi <;> cases hi
    next hack => exact ⟨by rw [encode, encDctl_ackRecordD h, hack], rfl⟩

/-! ### Decode vectors -/

/-- A row of the tick decode table is encoded in the flags that select it (R91). -/
theorem encode_decodeTickBits (p : Params) (more cIR cOV dIR dOV : Bool) :
    encode p (decodeTickBits more cIR cOV dIR dOV) = .tick (tickBits more cIR cOV dIR dOV)
      ∧ (decodeTickBits more cIR cOV dIR dOV).wellFormed p = true := by
  cases more <;> cases cIR <;> cases cOV <;> cases dIR <;> cases dOV <;> exact ⟨rfl, rfl⟩

/-- A vector is made of its five bits (R91). -/
theorem tickBits_flags : ∀ t : BitVec 5, tickBits (flagOf t.toNat 4) (flagOf t.toNat 3) (flagOf t.toNat 2)
    (flagOf t.toNat 1) (flagOf t.toNat 0) = t := by decide

theorem encode_decodeTick (p : Params) (t : BitVec 5) :
    encode p (decodeTick t) = .tick t ∧ (decodeTick t).wellFormed p = true := by
  have h := encode_decodeTickBits p (flagOf t.toNat 4) (flagOf t.toNat 3) (flagOf t.toNat 2) (flagOf t.toNat 1)
    (flagOf t.toNat 0)
  rwa [tickBits_flags] at h

theorem decode_of_encode_tick {p : Params} {i : Instr} {t : BitVec 5} (h : encode p i = .tick t) :
    decode p (encode p i) = .ok i := by
  rw [h, decode, Machine.decodeTick_of_encode h]

/-! ### The two laws -/

/-- Settles O10: an access is found by its register's address, a layout's record by the codec's round trip, a short form
by its pattern, a tick row by its flags. -/
theorem decodeOfEncode : Obligations.DecodeOfEncode := by
  unfold Obligations.DecodeOfEncode
  intro p i hp hwf
  obtain ⟨fitCctl, fitDctl, fitCst, fitDst, -⟩ := codecRoundTripLaws p hp
  cases i
  case wrCCtrl v => exact decode_encodeWrite hp .cCtrl (of_decide_eq_true hwf)
  case wrDCtrl v => exact decode_encodeWrite hp .dCtrl (of_decide_eq_true hwf)
  case wrCycle v => exact decode_encodeWrite hp .cycle (of_decide_eq_true hwf)
  case wrInstr v => exact decode_encodeWrite hp .instr (of_decide_eq_true hwf)
  case rdCStat => exact decode_encodeRead hp .cStat
  case rdDStat => exact decode_encodeRead hp .dStat
  case rdCRst => exact decode_encodeRead hp .cRst
  case rdDRst => exact decode_encodeRead hp .dRst
  case rdCycle => exact decode_encodeRead hp .cycle
  case rdInstr => exact decode_encodeRead hp .instr
  case cctl f => simp only [encode, decode, checkWord_of_lt (encCctl_lt p f), Except.map, decodeLayout, fitCctl f hwf]
  case dctl f => simp only [encode, decode, checkWord_of_lt (encDctl_lt p f), Except.map, decodeLayout, fitDctl f hwf]
  case cst f => simp only [encode, decode, checkWord_of_lt (encCst_lt p f), Except.map, decodeLayout, fitCst f hwf]
  case dst f => simp only [encode, decode, checkWord_of_lt (encDst_lt p f), Except.map, decodeLayout, fitDst f hwf]
  case cFeed b => simp only [encode, decode, checkWord_of_lt (encCctl_lt p _), Except.bind, decodeControlC_feed hp]
  case cAck => simp only [encode, decode, checkWord_of_lt (encCctl_lt p _), Except.bind, decodeControlC_ack hp]
  case dInput x =>
    simp only [encode, decode, checkWord_of_lt (encDctl_lt p _), Except.bind,
      decodeControlD_input hp ((Instr.wellFormed_dInput_iff p x).1 hwf)]
  case dAck => simp only [encode, decode, checkWord_of_lt (encDctl_lt p _), Except.bind, decodeControlD_ack hp]
  all_goals exact decode_of_encode_tick rfl

/-- A layout's word is, but for its reserved bits, the word of its record, which fits (R122). -/
theorem encode_decodeLayout {p : Params} (hp : p.legal = true) (l : Layout) {w : Nat} (hw : w < 2 ^ p.W) :
    encode p (decodeLayout p l w) = (Frame.layout l w).cleared p ∧ (decodeLayout p l w).wellFormed p = true := by
  cases l with
  | cctl => exact ⟨congrArg (Frame.layout .cctl) (encCctl_decCctl hp w), decCctl_fits p w⟩
  | dctl => exact ⟨congrArg (Frame.layout .dctl) (encDctl_decDctl hp w), decDctl_fits p w⟩
  | cst => exact ⟨congrArg (Frame.layout .cst) ((encCst_decCst hp w).trans (Nat.mod_eq_of_lt hw)), decCst_fits hp w⟩
  | dst => exact ⟨congrArg (Frame.layout .dst) ((encDst_decDst hp w).trans (Nat.mod_eq_of_lt hw)), decDst_fits hp w⟩

/-- Settles O11: each kind of frame that decodes determines its instruction's frame. -/
theorem encodeOfDecode : Obligations.EncodeOfDecode := by
  unfold Obligations.EncodeOfDecode
  intro p f i hp hf
  cases f with
  | access cmd data => exact encode_of_decodeAccess hf
  | tick t =>
    cases hf
    exact encode_decodeTick p t
  | layout l w =>
    cases hc : checkWord p w with
    | error e => simp only [decode, hc, Except.map] at hf; cases hf
    | ok v =>
      obtain ⟨rfl, hw⟩ := checkWord_ok hc
      simp only [decode, hc, Except.map] at hf
      cases hf
      exact encode_decodeLayout hp l hw
  | control u w =>
    cases hc : checkWord p w with
    | error e => cases u <;> simp only [decode, hc, Except.bind] at hf <;> cases hf
    | ok v =>
      obtain ⟨rfl, hw⟩ := checkWord_ok hc
      cases u <;> simp only [decode, hc, Except.bind] at hf
      · exact encode_of_decodeControlC hp hw hf
      · exact encode_of_decodeControlD hp hw hf

/-- Settles O12: the table of five flags is finite. -/
theorem tickTableFollowsPriority : Obligations.TickTableFollowsPriority := Machine.tickKind_decodeTick_tickBits

/-- Settles O13: each word is decoded by evaluation. -/
theorem tableWordsDecode : Obligations.TableWordsDecode := by
  unfold Obligations.TableWordsDecode
  decide

end Sys2Proof
end

section
/-! The steps, said both ways (R150, R158, R160, R165): what `StepCase` lists is exactly what a step leads to, so a step of
a run is settled by naming its case. -/

namespace Sys2Proof.Machine

/-! ### The head of a loop -/

/-- What the head of a loop does is what a step there does. -/
theorem State.nextOp_loopHead {s : State} (hq : s.seq = .loopHead) (hr : s.inRun = true) :
    s.nextOp = if s.loopGoes = true then s.beginTick
      else if s.phase = .pump ∧ s.args.termMode = .drainToLength then .silent { s with phase := .draining }
      else .silent { s with seq := .closeCycle } := by
  obtain ⟨hp, hf⟩ := s.inRun_iff.1 hr
  simp only [State.nextOp, hq, State.atLoopHead_eq s hp, hf]
  rfl

/-- A used-up budget is raised instead of the tick (R162). -/
theorem State.beginTick_of_spent {s : State} (h : s.budgetSpent = true) :
    s.beginTick = .silent (s.raise .stallBudget (.ticks s.ticks)) := by
  rw [State.beginTick, if_pos h, State.budgetCheck, if_pos h]

/-! ### From a case to its step -/

/-- A position of the fixed sequence that reads a register: the read, then the next position (R165). -/
theorem stepIn_readAt (e : Env) {s t : State} {q : Seq} (r : ReadReg) (hq : s.seq = q)
    (hn : (s.inSeq q).nextOp = .instr (readInstr r)) (hidle : q ≠ .idle)
    (ht : (s.inSeq q).afterOp ((s.inSeq q).read e r) = t) : stepIn e s = .next t := by
  rw [State.inSeq_self hq] at hn ht
  rw [stepIn_read e hn (hq ▸ hidle), ht]

/-- A position of the fixed sequence that writes a register: the write, then the next position (R165). -/
theorem stepIn_writeAt (e : Env) {s t : State} {q : Seq} (r : WriteReg) (v : Nat) (hq : s.seq = q)
    (hn : (s.inSeq q).nextOp = .instr (writeInstr v r)) (hidle : q ≠ .idle)
    (ht : (s.inSeq q).afterOp ((s.inSeq q).write e r v) = t) : stepIn e s = .next t := by
  rw [State.inSeq_self hq] at hn ht
  rw [stepIn_write e hn (hq ▸ hidle), ht]

/-- The step that fetches a host's operation runs it, with the request taken from the port. -/
theorem stepWith_hostOp {ex : Instr → State → Result} {s : State} {f : Frame} {rest : List HostReq} {i : Instr}
    (hq : s.seq = .idle) (hp : s.port = .op f :: rest) (hd : decode s.params f = .ok i) :
    stepWith ex s = ex i { s with port := rest } := by
  have hnext : s.nextOp = .instr i := by simp only [State.nextOp, hq, State.serveHost, hp, fetchFrame, hd]
  have hissued : s.issued = { s with port := rest } := by rw [State.issued, if_pos hq, hp, List.tail_cons]
  have hafter : ∀ t, s.afterOp t = t := fun t => by simp only [State.afterOp, hq]
  simp only [stepWith, hnext, hissued, hafter]
  cases ex i { s with port := rest } <;> rfl

/-- Every case is a step: with `stepIn_cases`, what a step leads to is exactly what the cases list. -/
theorem StepCase.stepIn_eq {e : Env} {s t : State} (h : StepCase e s t) : stepIn e s = .next t := by
  cases h with
  | noRequest hq hp => exact stepWith_silent (by simp only [State.nextOp, hq, State.serveHost, hp])
  | runStart a rest hq hp hi hl => exact stepIn_runStart e hq hi hp hl
  | resultsTaken rest hq hp => exact stepWith_silent (by simp only [State.nextOp, hq, State.serveHost, hp])
  | hostOp f rest i t hq hp hd hx => exact (stepWith_hostOp hq hp hd).trans hx
  | resetC hq => exact stepIn_readAt e .cRst hq rfl nofun (State.inSeq_self hq ▸ rfl)
  | resetD hq => exact stepIn_readAt e .dRst hq rfl nofun (State.inSeq_self hq ▸ rfl)
  | clearCycle hq => exact stepIn_writeAt e .cycle 0 hq rfl nofun (State.inSeq_self hq ▸ rfl)
  | clearInstr hq => exact stepIn_writeAt e .instr 0 hq rfl nofun (State.inSeq_self hq ▸ rfl)
  | baseCycle hq => exact stepIn_readAt e .cycle hq rfl nofun (State.inSeq_self hq ▸ rfl)
  | pumpStart hq => exact stepIn_readAt e .instr hq rfl nofun (State.inSeq_self hq ▸ rfl)
  | tickStart hq hr hg hb => exact stepIn_loopHead e hq hr hg hb
  | budgetHit hq hr hg hb =>
    exact stepWith_silent (by rw [State.nextOp_loopHead hq hr, if_pos hg, State.beginTick_of_spent hb])
  | drainStart hq hr hg hp hm => exact stepIn_drainStart e hq hr hg hp hm
  | closeStart hq hr hg hm =>
    have hno : ¬(s.phase = .pump ∧ s.args.termMode = .drainToLength) := by
      rintro ⟨hp, hd⟩
      simp [hp, hd] at hm
    exact stepWith_silent (by rw [State.nextOp_loopHead hq hr, if_neg (by simp [hg]), if_neg hno])
  | faultSeen hq hp hf =>
    exact stepWith_silent (by simp only [State.nextOp, hq, State.atLoopHead_eq s hp, if_pos hf])
  | secondRead hq => exact stepIn_readD e hq
  | outcome c d hq hc hd hr => exact stepIn_decide e hq hr hc hd
  | closeCycle hq => exact stepIn_readAt e .cycle hq rfl nofun (State.inSeq_self hq ▸ rfl)
  | closeInstr hq => exact stepIn_readAt e .instr hq rfl nofun (State.inSeq_self hq ▸ rfl)
  | runEnd a b hq h0 h1 => exact stepIn_finish e hq h0 h1

theorem StepCase.step_eq {s t : State} (h : StepCase Config.env s t) : step s = .next t := by
  rw [step_eq_stepIn_env]
  exact h.stepIn_eq

/-! ### What the step does at each position -/

/-- Settles O28: both are the same functions with the environment written out. -/
theorem machineIsItsOwnEnvironment : Obligations.MachineIsItsOwnEnvironment :=
  ⟨fun i s => (execIn_env i s).symm, fun s => congrFun step_eq_stepIn_env s⟩

/-- Settles O25: a host's operation leaves the port as it is fetched, and a decode vector stands for its row. -/
theorem stepRunsFetchedInstruction : Obligations.StepRunsFetchedInstruction := by
  unfold Obligations.StepRunsFetchedInstruction
  refine ⟨fun s f rest i hq hp hd => stepWith_hostOp hq hp hd, fun s t i hq hv hd => ?_⟩
  simp only [State.tickVector] at hv
  split at hv <;> cases hv
  next c d hc hd' =>
    cases hd
    exact stepWith_decide hq hc hd'

/-- Settles O26: each position is a case of its own. -/
theorem runSequence : Obligations.RunSequence := by
  unfold Obligations.RunSequence
  intro s e
  exact ⟨fun hq => (StepCase.resetC hq).step_eq, fun hq => (StepCase.resetD hq).step_eq,
    fun hq => (StepCase.clearCycle hq).step_eq, fun hq => (StepCase.clearInstr hq).step_eq,
    fun hq => (StepCase.baseCycle hq).step_eq, fun hq => (StepCase.pumpStart hq).step_eq,
    fun hq hr hg hb => (StepCase.tickStart hq hr hg hb).step_eq, fun hq => (StepCase.secondRead hq).step_eq,
    fun hq => (StepCase.closeCycle hq).step_eq, fun hq => (StepCase.closeInstr hq).step_eq⟩

/-- Settles O21: the row that is fetched does the outcome of the two records. -/
theorem outcomeStepFollowsPriority : Obligations.OutcomeStepFollowsPriority :=
  fun _ c d hq hr hc hd => (StepCase.outcome c d hq hc hd hr).step_eq

/-- Settles O33: the head of the loop checks the budget before the tick's first read. -/
theorem budgetStopsTheLoop : Obligations.BudgetStopsTheLoop :=
  fun s n hq hr hg hb hn => (StepCase.budgetHit hq hr hg (s.budgetSpent_iff.2 ⟨n, hb, hn⟩)).step_eq

/-- Settles O31: at the head of a loop whose condition is false the step goes on to what comes after the loop. -/
theorem loopsEnd : Obligations.LoopsEnd := by
  unfold Obligations.LoopsEnd
  intro s hq hf
  have pumped : s.phase = .pump → s.args.inLen ≤ s.inCur → s.inRun = true ∧ s.loopGoes = false := fun hp hle =>
    ⟨s.inRun_iff.2 ⟨.inl hp, hf⟩, by simp only [State.loopGoes, hp, State.more, decide_eq_false (Nat.not_lt.2 hle)]⟩
  have drained : s.phase = .draining → s.args.expectLen ≤ s.outCur → s.inRun = true ∧ s.loopGoes = false := fun hp hle =>
    ⟨s.inRun_iff.2 ⟨.inr hp, hf⟩, by simp only [State.loopGoes, hp, decide_eq_false (Nat.not_lt.2 hle)]⟩
  refine ⟨fun hp hle hm => ?drain, fun hp hle hm => ?closePump, fun hp hle => ?closeDrain⟩
  case drain => exact (StepCase.drainStart hq (pumped hp hle).1 (pumped hp hle).2 hp hm).step_eq
  case closePump => exact (StepCase.closeStart hq (pumped hp hle).1 (pumped hp hle).2 (.inr hm)).step_eq
  case closeDrain => exact (StepCase.closeStart hq (drained hp hle).1 (drained hp hle).2 (.inl hp)).step_eq

/-- Settles O32: the step is `State.closeRun` of the two samples. -/
theorem runCloses : Obligations.RunCloses := by
  unfold Obligations.RunCloses
  intro s a b W hq h0 h1
  rw [(StepCase.runEnd a b hq h0 h1).step_eq, State.closeRun, ← h1]
  rfl

/-- Settles O30: the first request in the port decides, and a run is started from IDLE with legal arguments only. -/
theorem hostRequests : Obligations.HostRequests := by
  unfold Obligations.HostRequests
  intro s a rest hq
  refine ⟨fun hp hi => ?notIdle, fun hp hi hbad => ?illegal, fun hp hended => ?results, fun hp => ?nothing⟩
  case notIdle => exact stepWith_refused.2 (.inl (by simp only [State.nextOp, hq, State.serveHost, hp, if_neg hi]))
  case illegal =>
    have hno : ¬ a.legal = true := by
      rw [a.legal_iff]
      rintro ⟨hparams, hin, hout⟩
      rcases hbad with h | h | h
      · simp [hparams] at h
      · omega
      · omega
    exact stepWith_refused.2 (.inl (by simp only [State.nextOp, hq, State.serveHost, hp, if_pos hi, if_neg hno]))
  case results =>
    rw [(StepCase.resultsTaken rest hq hp).step_eq]
    exact congrArg Host.Outcome.next (if_pos hended)
  case nothing => exact (StepCase.noRequest hq hp).step_eq

end Sys2Proof.Machine
end

section
/-! The codec's rows (R110), the rows that drain into room and into a full buffer (R154, R157), and the tick rows outside
their condition (log entry 13). -/

namespace Sys2Proof.Machine

/-! ### Codec calls -/

/-- Settles O6: the word is the encoder's arithmetic, the record its round trip. -/
theorem layoutRowsAreCodecCalls : Obligations.LayoutRowsAreCodecCalls := by
  unfold Obligations.LayoutRowsAreCodecCalls
  intro s p hp
  refine ⟨fun f => ?cctl, fun f => ?dctl, fun f => ?cst, fun f => ?dst⟩
  case cctl =>
    have hexec : exec (.cctl f) s = .next (s.codecReturn (encCctl p f) (.cctl (decCctl p (encCctl p f)))) := rfl
    rw [hexec, decCctl_encCctl hp, encCctl_eq hp, State.codecReturn]
  case dctl =>
    have hexec : exec (.dctl f) s = .next (s.codecReturn (encDctl p f) (.dctl (decDctl p (encDctl p f)))) := rfl
    rw [hexec, decDctl_encDctl hp, encDctl_eq hp, State.codecReturn]
  case cst =>
    have hexec : exec (.cst f) s = .next (s.codecReturn (encCst p f) (.cst (decCst p (encCst p f)))) := rfl
    rw [hexec, decCst_encCst hp, encCst_eq hp, State.codecReturn]
  case dst =>
    have hexec : exec (.dst f) s = .next (s.codecReturn (encDst p f) (.dst (decDst p (encDst p f)))) := rfl
    rw [hexec, decDst_encDst hp, encDst_eq hp, State.codecReturn]

/-! ### Drain rows -/

/-- A drain row whose vector the tick in progress has drains the word that the tick read (R154). -/
theorem exec_drainRow {cIR dIR : Bool} {i : Instr}
    (hi : i ∈ [Instr.tickDrainA cIR dIR, .tickDrainB cIR, .tickDrainC dIR, .tickDrainD]) {t : BitVec 5} {s : State} {d : Dst} (ht : encode s.params i = .tick t) (hr : s.tickReady t = true)
    (hd : s.dst = some d) : s.fault = .none ∧ exec i s = .next (s.drain Config.env d).endTick := by
  have hkind : tickKind i = some .drain := by fin_cases hi <;> rfl
  obtain ⟨c, d', -, hd', hf, -, hx⟩ := exec_tickRow ht hr hkind
  cases hd.symm.trans hd'
  exact ⟨hf, hx⟩

/-- Settles O16: with room for the bytes the row stores them where `out_cur` stood. -/
theorem drainRowsStore : Obligations.DrainRowsStore := by
  unfold Obligations.DrainRowsStore
  intro cIR dIR i hi t s d hp ht hr hd hlen hroom w
  obtain ⟨hf, hx⟩ := exec_drainRow hi ht hr hd
  have hbytes := unpack_length (o := d.outputBits) (n := d.dataOutLength) hlen
  have hread : ∀ a, (s.outBuf.writeBytes s.outCur (unpack d.outputBits d.dataOutLength)).read a
      = if s.outCur ≤ a ∧ a < s.outCur + d.dataOutLength then (unpack d.outputBits d.dataOutLength)[a - s.outCur]?
        else s.outBuf.read a := fun a => by rw [Memory.read_writeBytes, hbytes]
  have hstored : ∀ k, k < d.dataOutLength →
      (s.outBuf.writeBytes s.outCur (unpack d.outputBits d.dataOutLength)).read (s.outCur + k)
        = (unpack d.outputBits d.dataOutLength)[k]? := fun k hk => by
    rw [hread, if_pos (by omega), Nat.add_sub_cancel_left]
  refine ⟨s.outBuf.writeBytes s.outCur (unpack d.outputBits d.dataOutLength), ?_, hstored, fun k hk => ?_, fun a ha => ?_⟩
  · rw [hx, State.drain_of_room _ hlen hroom, State.endTick_of_none (by exact hf), State.dWriteInputs,
      World.dWriteInputs_eq, encDctl_ackRecordD hp]
    rfl
  · rw [hstored k hk, List.getElem?_eq_getElem (by omega)]
    rfl
  · rw [hread, if_neg (by omega)]

/-- Settles O18: without room for the bytes the row acknowledges and then raises the fault. -/
theorem drainOutputOverflow : Obligations.DrainOutputOverflow := by
  unfold Obligations.DrainOutputOverflow
  intro cIR dIR i hi t s d hp ht hr hd hlen hfull w
  obtain ⟨-, hx⟩ := exec_drainRow hi ht hr hd
  rw [hx, State.drain_of_full _ hlen hfull, State.endTick_raise _ _ (by decide), State.dWriteInputs,
    World.dWriteInputs_eq, encDctl_ackRecordD hp]
  rfl

/-! ### Rows outside their condition -/

/-- Settles O20: the row is that of its vector, which is not the vector of the tick in progress. -/
theorem tickRowsRefusedElsewhere : Obligations.TickRowsRefusedElsewhere := by
  unfold Obligations.TickRowsRefusedElsewhere
  intro i t s hi hr
  rw [← decodeTick_of_encode hi, ← execIn_env, execIn_decodeTick_refused _ hr]

/-! ### Fault codes and power-on -/

theorem FaultCode.code_injective : ∀ f g : FaultCode, f.code = g.code → f = g := by
  intro f g
  cases f <;> cases g <;> simp [FaultCode.code]

/-- Settles O4: the five codes are listed. -/
theorem faultCodes : Obligations.FaultCodes :=
  ⟨rfl, rfl, rfl, rfl, rfl, FaultCode.code_injective, fun f => by cases f <;> decide⟩

/-- Settles O38: the values stand in `State.reset`. -/
theorem powerOnValues : Obligations.PowerOnValues := ⟨rfl, rfl, rfl, rfl, rfl⟩

end Sys2Proof.Machine
end

section
/-! The invariant of the machine (R168, R31, R33, R34, R38, R162, R180): what the data of a state keeps whatever the
position, and what each kind of position asks; every step keeps both, and from a state that has them every run goes on. -/

namespace Sys2Proof.Machine

/-! ### How a tick ends -/

/-- An outcome changes the registers and units, the cursors, the buffer and the ghost log only, and then the tick is counted;
or it raises a fault with the cursors and the buffer as they were (R150, R216). -/
theorem State.outcome_ends (e : Env) (c : Cst) (d : Dst) {s : State} (hf : s.fault = .none) :
    (∃ w i o b m, (s.outcome e c d).endTick = { s with
      world := w, inCur := i, outCur := o, outBuf := b, mid := m
      ticks := s.ticks + 1, cst := none, dst := none, seq := .loopHead }) ∨
    ∃ w f i, f ≠ .none ∧ (s.outcome e c d).endTick = ({ s with world := w } : State).raise f i := by
  obtain ⟨-, -, hm, ho⟩ | ⟨-, -, -, ho⟩ | ⟨-, -, ho⟩ | ⟨-, ho⟩ := s.outcome_selected e c d <;> rw [ho]
  case inl =>
    obtain ⟨b, hb⟩ := State.nextByte_isSome hm
    rw [State.endTick_of_none ((s.feed_fault e).trans hf), State.feed_of_byte e hb]
    exact .inl ⟨_, _, _, _, _, rfl⟩
  case inr.inl =>
    rw [State.endTick_of_none (s := s.xfer e c) hf]
    exact .inl ⟨_, _, _, _, _, rfl⟩
  case inr.inr.inl =>
    obtain ⟨-, h⟩ | ⟨-, -, h⟩ | ⟨-, -, h⟩ := s.drain_cases e d <;> rw [h]
    · exact .inr ⟨_, _, _, by decide, State.endTick_raise _ _ (by decide)⟩
    · exact .inr ⟨_, _, _, by decide, State.endTick_raise _ _ (by decide)⟩
    · rw [State.endTick_of_none (by exact hf)]
      exact .inl ⟨_, _, _, _, _, rfl⟩
  case inr.inr.inr =>
    rw [State.endTick_of_none hf]
    exact .inl ⟨_, _, _, _, _, rfl⟩

theorem World.cWriteInputs_fits (p : Params) (e : Env) (f : Cctl) (w : World) : (w.cWriteInputs p e f).fits p :=
  World.regWrite_counters_lt ..

theorem World.dWriteInputs_fits (p : Params) (e : Env) (f : Dctl) (w : World) : (w.dWriteInputs p e f).fits p :=
  World.regWrite_counters_lt ..

/-- An outcome leaves the counters words (R180). -/
theorem State.outcome_fits (e : Env) (c : Cst) (d : Dst) {s : State} (h : s.world.fits s.params) :
    (s.outcome e c d).world.fits s.params := by
  obtain ⟨-, -, hm, ho⟩ | ⟨-, -, -, ho⟩ | ⟨-, -, ho⟩ | ⟨-, ho⟩ := s.outcome_selected e c d <;> rw [ho]
  case inl =>
    obtain ⟨b, hb⟩ := State.nextByte_isSome hm
    rw [State.feed_of_byte e hb]
    exact World.cWriteInputs_fits ..
  case inr.inl => exact World.dWriteInputs_fits ..
  case inr.inr.inl =>
    rw [State.drain_world]
    exact World.dWriteInputs_fits ..
  case inr.inr.inr => exact h

/-! ### The data of a state -/

/-- The part of the invariant that does not speak of the position. -/
structure State.DataInv (s : State) : Prop where
  outWf : s.outBuf.wf
  written : ∀ i, i < s.outCur → (s.outBuf.read i).isSome = true
  unwritten : ∀ i, s.outCur ≤ i → s.outBuf.read i = none
  inBound : s.inCur ≤ s.args.inLen
  outBound : s.outCur ≤ s.args.outCap
  countersFit : s.world.fits s.params
  rdataFits : s.rdata < 2 ^ s.params.W
  samplesFit : ∀ x, s.s0 = some x ∨ s.s1 = some x ∨ s.delta = some x → x.fits s.params
  recordsFit : (∀ c, s.cst = some c → fitsCst s.params c = true) ∧ ∀ d, s.dst = some d → fitsDst s.params d = true
  argsLegal : s.args.legal = true
  budget : ∀ n, s.args.tickBudget = some n → s.ticks ≤ n

theorem State.Inv.data {s : State} (h : s.Inv) : s.DataInv where
  outWf := h.outWf
  written := h.written
  unwritten := h.unwritten
  inBound := h.inBound
  outBound := h.outBound
  countersFit := h.countersFit
  rdataFits := h.rdataFits
  samplesFit := h.samplesFit
  recordsFit := h.recordsFit
  argsLegal := h.argsLegal
  budget := h.budget

theorem State.DataInv.paramsLegal {s : State} (h : s.DataInv) : s.params.legal = true := (s.args.legal_iff.1 h.argsLegal).1

/-- Registers, units and the word returned may change: they stay words. -/
theorem State.DataInv.withWorld {s : State} (h : s.DataInv) {w : World} {r : Nat} (hw : w.fits s.params)
    (hr : r < 2 ^ s.params.W) : ({ s with world := w, rdata := r } : State).DataInv :=
  { h with countersFit := hw, rdataFits := hr }

theorem State.DataInv.read {s : State} (h : s.DataInv) (e : Env) (r : ReadReg) : (s.read e r).DataInv :=
  h.withWorld (World.regRead_counters_lt ..) (World.regRead_lt ..)

theorem State.DataInv.write {s : State} (h : s.DataInv) (e : Env) (r : WriteReg) (x : Nat) : (s.write e r x).DataInv :=
  h.withWorld (World.regWrite_counters_lt ..) h.rdataFits

/-- A fault changes none of the data, and the status records are gone (R216). -/
theorem State.DataInv.raise {s : State} (h : s.DataInv) (f : FaultCode) (i : FaultInfo) : (s.raise f i).DataInv :=
  { h with recordsFit := ⟨nofun, nofun⟩ }

theorem State.DataInv.cst {s : State} (h : s.DataInv) (w : Nat) :
    ({ s with cst := some (decCst s.params w) } : State).DataInv :=
  { h with recordsFit := ⟨fun c hc => by cases hc; exact decCst_fits h.paramsLegal w, h.recordsFit.2⟩ }

theorem State.DataInv.dst {s : State} (h : s.DataInv) (w : Nat) :
    ({ s with dst := some (decDst s.params w) } : State).DataInv :=
  { h with recordsFit := ⟨h.recordsFit.1, fun d hd => by cases hd; exact decDst_fits h.paramsLegal w⟩ }

theorem State.DataInv.s0 {s : State} (h : s.DataInv) {x : Sample} (hx : x.fits s.params) :
    ({ s with s0 := some x } : State).DataInv :=
  { h with samplesFit := fun y hy => hy.elim (fun h0 => Option.some.inj h0 ▸ hx) fun hy => h.samplesFit y (.inr hy) }

theorem State.DataInv.s1 {s : State} (h : s.DataInv) {x : Sample} (hx : x.fits s.params) :
    ({ s with s1 := some x } : State).DataInv :=
  { h with samplesFit := fun y hy => hy.elim (fun h0 => h.samplesFit y (.inl h0)) fun hy =>
      hy.elim (fun h1 => Option.some.inj h1 ▸ hx) fun hd => h.samplesFit y (.inr (.inr hd)) }

/-- The delta of two samples is a sample of words (R185). -/
theorem pcDelta_fits (p : Params) (a b : Sample) : (pcDelta p a b).fits p := ⟨trunc_lt _ _, trunc_lt _ _⟩

theorem State.DataInv.closeRun {s : State} (h : s.DataInv) {a b : Sample} (h1 : s.s1 = some b) :
    (s.closeRun a b).DataInv :=
  { h with samplesFit := fun y hy => hy.elim (fun h0 => h.samplesFit y (.inl h0)) fun hy =>
      hy.elim (fun hb => h.samplesFit y (.inr (.inl (h1.trans hb)))) fun hd => Option.some.inj hd ▸ pcDelta_fits .. }

/-- The start of a run cuts the words to its `W` and begins with nothing fed and nothing stored (R242). -/
theorem State.dataInv_startRun (s : State) {a : RunArgs} (hl : a.legal = true) : (s.startRun a).DataInv where
  outWf := Memory.wf_nil
  written := fun i hi => absurd hi (Nat.not_lt_zero i)
  unwritten := fun _ _ => rfl
  inBound := Nat.zero_le _
  outBound := Nat.zero_le _
  countersFit := ⟨trunc_lt _ _, trunc_lt _ _⟩
  rdataFits := trunc_lt _ _
  samplesFit := by rintro x (h | h | h) <;> cases h
  recordsFit := ⟨nofun, nofun⟩
  argsLegal := hl
  budget := fun _ _ => Nat.zero_le _

/-- The bytes an outcome stores stand from the old `out_cur` up to the new one, so `out_cur` stays the boundary of what is
written. -/
theorem State.Advances.boundary {s t : State} (h : s.Advances t) (hd : s.DataInv) :
    t.outBuf.wf ∧ (∀ i, i < t.outCur → (t.outBuf.read i).isSome = true) ∧ (∀ i, t.outCur ≤ i → t.outBuf.read i = none)
      ∧ t.inCur ≤ s.args.inLen ∧ t.outCur ≤ s.args.outCap := by
  obtain ⟨-, hin, bs, -, hroom, hout, hbuf⟩ := h
  have hread : ∀ i, t.outBuf.read i
      = if s.outCur ≤ i ∧ i < s.outCur + bs.length then bs[i - s.outCur]? else s.outBuf.read i := fun i => by
    rw [hbuf, Memory.read_writeBytes]
  refine ⟨hbuf ▸ Memory.writeBytes_wf hd.outWf _ _, fun i hi => ?_, fun i hi => ?_, ?_, hout ▸ hroom hd.outBound⟩
  · rw [hread]
    split
    · rw [List.getElem?_eq_getElem (by omega)]
      rfl
    · exact hd.written i (by omega)
  · rw [hread, if_neg (by omega)]
    exact hd.unwritten i (by omega)
  · rcases hin with h | ⟨hmore, h⟩
    · exact h ▸ hd.inBound
    · have := s.more_iff.1 hmore
      omega

/-- An outcome and the end of its tick keep the data, the count too if the tick was within the budget (R162, R168). -/
theorem State.DataInv.outcome {s : State} (h : s.DataInv) (e : Env) (c : Cst) (d : Dst) (hf : s.fault = .none)
    (hb : ∀ n, s.args.tickBudget = some n → s.ticks < n) : (s.outcome e c d).endTick.DataInv := by
  obtain ⟨hwf, hwritten, hunwritten, hin, hout⟩ := (s.outcome_advances e c d).endTick.boundary h
  have hfits : (s.outcome e c d).endTick.world.fits s.params := by
    obtain ⟨hworld, -⟩ := (s.outcome e c d).endTick_frame
    exact hworld ▸ s.outcome_fits e c d h.countersFit
  obtain ⟨w, i, o, b, m, heq⟩ | ⟨w, f, i, -, heq⟩ := s.outcome_ends e c d hf <;>
    rw [heq] at hwf hwritten hunwritten hin hout hfits ⊢
  · exact { h with
      outWf := hwf, written := hwritten, unwritten := hunwritten, inBound := hin, outBound := hout
      countersFit := hfits, recordsFit := ⟨nofun, nofun⟩, budget := hb }
  · exact State.DataInv.raise (s := { s with world := w }) (h.withWorld hfits h.rdataFits) f i

/-! ### The three kinds of positions -/

/-- Between runs (R31, R33, R34). -/
theorem State.Inv.ofIdle {s : State} (h : s.DataInv) (hq : s.seq = .idle)
    (hphase : s.phase = .idle ∨ s.phase = .done ∨ s.phase = .faulted) (hfaulted : s.phase = .faulted → s.fault ≠ .none)
    (hdone : s.phase = .done → s.fault = .none) (hc : s.cst = none) (hd : s.dst = none) : s.Inv :=
  { h with
    tickBudgeted := by simp [hq]
    phaseIdle := fun _ => hphase
    phasePrologue := by simp [hq, Seq.isPrologue]
    phaseLoop := fun hne => absurd hq hne
    drained := fun hp => by simp [hp] at hphase
    faulted := hfaulted
    noFault := fun hor => hor.elim (absurd hq) hdone
    cstLive := by simp [hq, hc]
    dstLive := by simp [hq, hd]
    s0Taken := fun hne => absurd hq hne
    s1Taken := by simp [hq]
    noResults := fun hne => absurd hq hne }

/-- Before the pump (R165): `phase` is still IDLE, there is no fault, no status record and no result. -/
structure State.Starting (s : State) : Prop where
  phase : s.phase = .idle
  fault : s.fault = .none
  cst : s.cst = none
  dst : s.dst = none
  results : s.delta = none ∧ s.mismatches = none

theorem State.Inv.ofPrologue {s : State} (h : s.DataInv) (hq : s.seq.isPrologue = true) (hs : s.Starting) : s.Inv := by
  obtain ⟨hphase, hfault, hc, hd, hres⟩ := hs
  have hne : ∀ q : Seq, q.isPrologue = false → s.seq ≠ q := by
    rintro q hno rfl
    simp [hq] at hno
  have hreadD : s.seq ≠ .readD := hne _ rfl
  have hdecide : s.seq ≠ .decide := hne _ rfl
  exact { h with
    tickBudgeted := fun hor => hor.elim (fun heq => absurd heq hreadD) fun heq => absurd heq hdecide
    phaseIdle := fun heq => absurd heq (hne _ rfl)
    phasePrologue := fun _ => hphase
    phaseLoop := fun _ hno => by simp [hq] at hno
    drained := by simp [hphase]
    faulted := by simp [hphase]
    noFault := fun _ => hfault
    cstLive := by simp [hc, hreadD, hdecide]
    dstLive := by simp [hd, hdecide]
    s0Taken := fun _ hno => by simp [hq] at hno
    s1Taken := fun heq => absurd heq (hne _ rfl)
    noResults := fun _ => hres }

/-- From the pump's start to the run's end (R165): `phase` is PUMP or DRAINING, the latter with the input used up (R161);
there is no fault and no result, and the baseline is taken. -/
structure State.Looping (s : State) : Prop where
  phase : s.phase = .pump ∨ s.phase = .draining
  fault : s.fault = .none
  drained : s.phase = .draining → s.inCur = s.args.inLen
  baseline : s.s0.isSome = true
  results : s.delta = none ∧ s.mismatches = none

theorem State.Looping.inRun {s : State} (h : s.Looping) : s.inRun = true := s.inRun_iff.2 ⟨h.phase, h.fault⟩

theorem State.Inv.ofLoop {s : State} (h : s.DataInv) (hq : s.seq ≠ .idle) (hno : s.seq.isPrologue = false) (hl : s.Looping)
    (hc : s.cst.isSome = true ↔ s.seq = .readD ∨ s.seq = .decide) (hd : s.dst.isSome = true ↔ s.seq = .decide)
    (hb : s.seq = .readD ∨ s.seq = .decide → ∀ n, s.args.tickBudget = some n → s.ticks < n)
    (h1 : s.seq = .finish → s.s1.isSome = true) : s.Inv :=
  { h with
    tickBudgeted := hb
    phaseIdle := fun heq => absurd heq hq
    phasePrologue := fun hyes => by simp [hno] at hyes
    phaseLoop := fun _ _ => hl.phase
    drained := hl.drained
    faulted := fun hp => by simpa [hp] using hl.phase
    noFault := fun _ => hl.fault
    cstLive := hc
    dstLive := hd
    s0Taken := fun _ _ => hl.baseline
    s1Taken := h1
    noResults := fun _ => hl.results }

/-- At a position of the loops or after them that is not inside a tick. -/
theorem State.Inv.ofLoop_betweenTicks {s : State} (h : s.DataInv) (hq : s.seq = .loopHead ∨ s.seq.isEpilogue = true)
    (hl : s.Looping) (hc : s.cst = none) (hd : s.dst = none) (h1 : s.seq = .finish → s.s1.isSome = true) : s.Inv := by
  obtain ⟨hidle, hno, hreadD, hdecide⟩ :
      s.seq ≠ .idle ∧ s.seq.isPrologue = false ∧ s.seq ≠ .readD ∧ s.seq ≠ .decide := by
    cases hs : s.seq <;> simp_all [Seq.isEpilogue, Seq.isPrologue]
  exact .ofLoop h hidle hno hl (by simp [hc, hreadD, hdecide]) (by simp [hd, hdecide]) (by simp [hreadD, hdecide]) h1

theorem State.Inv.starting {s : State} (h : s.Inv) (hq : s.seq.isPrologue = true) : s.Starting := by
  obtain ⟨hidle, hreadD, hdecide⟩ : s.seq ≠ .idle ∧ s.seq ≠ .readD ∧ s.seq ≠ .decide := by
    refine ⟨?_, ?_, ?_⟩ <;> intro heq <;> simp [heq, Seq.isPrologue] at hq
  exact ⟨h.phasePrologue hq, h.noFault (.inl hidle), by simpa [hreadD, hdecide] using h.cstLive,
    by simpa [hdecide] using h.dstLive, h.noResults hidle⟩

theorem State.Inv.looping {s : State} (h : s.Inv) (hq : s.seq ≠ .idle) (hno : s.seq.isPrologue = false) : s.Looping :=
  ⟨h.phaseLoop hq hno, h.noFault (.inl hq), h.drained, h.s0Taken hq hno, h.noResults hq⟩

/-- Outside a tick there is no status record (R34). -/
theorem State.Inv.noRecords {s : State} (h : s.Inv) (hr : s.seq ≠ .readD) (hd : s.seq ≠ .decide) :
    s.cst = none ∧ s.dst = none :=
  ⟨by simpa [hr, hd] using h.cstLive, by simpa [hd] using h.dstLive⟩

/-! ### Every step keeps the invariant

In each lemma the last alternative holds the cases of other positions, which `hq` excludes. -/

/-- A host's operation changes the registers, the units and what goes back to the host: between runs there is no tick in
progress whose row it could run. -/
theorem State.Inv.hostOp {e : Env} {s t : State} (h : s.Inv) {i : Instr} {rest : List HostReq} (hq : s.seq = .idle)
    (hx : execIn e i { s with port := rest } = .next t) :
    ∃ w r c, t = { s with port := rest, world := w, rdata := r, record := c } ∧ w.fits s.params ∧ r < 2 ^ s.params.W := by
  obtain ⟨hc, -⟩ := h.noRecords (by simp [hq]) (by simp [hq])
  obtain ⟨w, r, c, rfl, hwords⟩ | ⟨c, d, hc', -⟩ := execIn_cases hx
  · exact ⟨w, r, c, rfl, hwords h.countersFit h.rdataFits⟩
  · simp [hc] at hc'

/-- Steps between runs. -/
theorem State.Inv.step_idle {e : Env} {s t : State} (h : s.Inv) (hs : StepCase e s t) (hq : s.seq = .idle) : t.Inv := by
  obtain ⟨hc, hd⟩ := h.noRecords (by simp [hq]) (by simp [hq])
  have hphase := h.phaseIdle hq
  have hdone : s.phase = .done → s.fault = .none := fun hp => h.noFault (.inr hp)
  cases hs with
  | noRequest => exact h
  | runStart a rest _ _ hi hl =>
    exact .ofPrologue (State.dataInv_startRun _ hl) rfl ⟨hi, rfl, rfl, rfl, rfl, rfl⟩
  | resultsTaken rest =>
    rw [State.takeResults]
    split
    · exact .ofIdle { h.data with } hq (.inl rfl) nofun nofun hc hd
    · exact .ofIdle { h.data with } hq hphase h.faulted hdone hc hd
  | hostOp f rest i t _ _ _ hx =>
    obtain ⟨w, r, c, rfl, hw, hr⟩ := h.hostOp hq hx
    exact .ofIdle { h.data.withWorld hw hr with } hq hphase h.faulted hdone hc hd
  | _ => simp_all

/-- Steps before the pump. -/
theorem State.Inv.step_prologue {e : Env} {s t : State} (h : s.Inv) (hs : StepCase e s t) (hq : s.seq.isPrologue = true) :
    t.Inv := by
  have hst := h.starting hq
  cases hs with
  | resetC | resetD | baseCycle => exact .ofPrologue { h.data.read e _ with } rfl { hst with }
  | clearCycle | clearInstr => exact .ofPrologue { h.data.write e _ 0 with } rfl { hst with }
  | pumpStart =>
    have hx : Sample.fits s.params ⟨s.rdata, (s.read e .instr).rdata⟩ :=
      ⟨h.rdataFits, World.regRead_lt s.params e .instr s.world⟩
    exact .ofLoop_betweenTicks { (h.data.read e .instr).s0 hx with } (.inl rfl) ⟨.inl rfl, hst.fault, nofun, rfl, hst.results⟩
      hst.cst hst.dst nofun
  | _ => simp_all [Seq.isPrologue]

/-- Steps of a tick and of the loops' heads. -/
theorem State.Inv.step_loop {e : Env} {s t : State} (h : s.Inv) (hs : StepCase e s t)
    (hq : s.seq = .loopHead ∨ s.seq = .readD ∨ s.seq = .decide) : t.Inv := by
  have hl : s.Looping := h.looping (by rintro h; simp [h] at hq) (by rcases hq with h | h | h <;> rw [h] <;> rfl)
  cases hs with
  | tickStart hq' _ _ hb =>
    obtain ⟨-, hd⟩ := h.noRecords (by simp [hq']) (by simp [hq'])
    have hbudget : ∀ n, s.args.tickBudget = some n → s.ticks < n := fun n hn => by
      by_contra hle
      rw [s.budgetSpent_iff.2 ⟨n, hn, by omega⟩] at hb
      cases hb
    exact .ofLoop { (h.data.read e .cStat).cst _ with } nofun rfl { hl with } (by simp) (by simp [hd]) (fun _ => hbudget) nofun
  | budgetHit =>
    exact .ofIdle (h.data.raise ..) rfl (.inr (.inr rfl)) (fun _ => by simp) nofun rfl rfl
  | drainStart hq' _ hg hp =>
    obtain ⟨hc, hd⟩ := h.noRecords (by simp [hq']) (by simp [hq'])
    have hused : s.inCur = s.args.inLen := by
      have hin := h.inBound
      simp only [State.loopGoes, hp, State.more, decide_eq_false_iff_not] at hg
      omega
    exact .ofLoop_betweenTicks { h.data with } (.inl hq') { hl with phase := .inr rfl, drained := fun _ => hused } hc hd
      (fun h1 => by simp [hq'] at h1)
  | closeStart hq' =>
    obtain ⟨hc, hd⟩ := h.noRecords (by simp [hq']) (by simp [hq'])
    exact .ofLoop_betweenTicks { h.data with } (.inr rfl) { hl with } hc hd nofun
  | faultSeen _ _ hf => exact absurd hl.fault hf
  | secondRead hq' =>
    have hc := h.cstLive.2 (.inl hq')
    exact .ofLoop { (h.data.read e .dStat).dst _ with } nofun rfl { hl with } (by simpa using hc) (by simp)
      (fun _ => h.tickBudgeted (.inl hq')) nofun
  | outcome c d hq' =>
    have hdata := h.data.outcome e c d hl.fault (h.tickBudgeted (.inr hq'))
    have hdrained : s.phase = .draining → (s.outcome e c d).endTick.inCur = s.args.inLen := fun hp => by
      have hused := hl.drained hp
      obtain ⟨-, hin | ⟨hmore, -⟩, -⟩ := (s.outcome_advances e c d).endTick
      · exact hin.trans hused
      · exact absurd (s.more_iff.1 hmore) (by omega)
    obtain ⟨w, i, o, b, m, heq⟩ | ⟨w, f, i, hne, heq⟩ := s.outcome_ends e c d hl.fault <;> rw [heq] at hdata hdrained ⊢
    · exact .ofLoop_betweenTicks hdata (.inl rfl) { hl with drained := hdrained } rfl rfl nofun
    · exact .ofIdle hdata rfl (.inr (.inr rfl)) (fun _ => hne) nofun rfl rfl
  | _ => simp_all

/-- Steps after the loops. -/
theorem State.Inv.step_epilogue {e : Env} {s t : State} (h : s.Inv) (hs : StepCase e s t) (hq : s.seq.isEpilogue = true) :
    t.Inv := by
  have hl : s.Looping := by
    apply h.looping <;> cases heq : s.seq <;> simp_all [Seq.isEpilogue, Seq.isPrologue]
  obtain ⟨hc, hd⟩ : s.cst = none ∧ s.dst = none := by
    apply h.noRecords <;> rintro heq <;> simp [heq, Seq.isEpilogue] at hq
  cases hs with
  | closeCycle => exact .ofLoop_betweenTicks { h.data.read e .cycle with } (.inr rfl) { hl with } hc hd nofun
  | closeInstr =>
    have hx : Sample.fits s.params ⟨s.rdata, (s.read e .instr).rdata⟩ :=
      ⟨h.rdataFits, World.regRead_lt s.params e .instr s.world⟩
    exact .ofLoop_betweenTicks { (h.data.read e .instr).s1 hx with } (.inr rfl) { hl with } hc hd fun _ => rfl
  | runEnd a b _ _ h1 =>
    exact .ofIdle (h.data.closeRun h1) rfl (.inr (.inl rfl)) nofun (fun _ => hl.fault) hc hd
  | _ => simp_all [Seq.isEpilogue]

/-- A position is one between runs, before the pump, in the loops or after them. -/
theorem Seq.cases_kind (q : Seq) : q = .idle ∨ q.isPrologue = true
    ∨ (q = .loopHead ∨ q = .readD ∨ q = .decide) ∨ q.isEpilogue = true := by
  cases q <;> simp [Seq.isPrologue, Seq.isEpilogue]

/-- Every step keeps the invariant, in any environment. -/
theorem State.Inv.step {e : Env} {s t : State} (h : s.Inv) (hs : StepCase e s t) : t.Inv := by
  rcases s.seq.cases_kind with hq | hq | hq | hq
  · exact h.step_idle hs hq
  · exact h.step_prologue hs hq
  · exact h.step_loop hs hq
  · exact h.step_epilogue hs hq

/-- Settles O40: by the kind of the position the step is taken at. -/
theorem stepKeepsInvariant : Obligations.StepKeepsInvariant := fun _ _ h hstep => h.step (step_cases hstep)

/-- Settles O39: power-on is a state between runs with nothing fed and nothing stored. -/
theorem resetHasInvariant : Obligations.ResetHasInvariant := by
  unfold Obligations.ResetHasInvariant
  have hdata : State.reset.DataInv :=
    { outWf := Memory.wf_nil
      written := fun i hi => absurd hi (Nat.not_lt_zero i)
      unwritten := fun _ _ => rfl
      inBound := Nat.zero_le _
      outBound := Nat.zero_le _
      countersFit := ⟨Nat.two_pow_pos _, Nat.two_pow_pos _⟩
      rdataFits := Nat.two_pow_pos _
      samplesFit := by rintro x (h | h | h) <;> cases h
      recordsFit := ⟨nofun, nofun⟩
      argsLegal := RunArgs.none.legal_iff.2 ⟨Params.default_legal, Nat.zero_le _, Nat.zero_le _⟩
      budget := nofun }
  exact .ofIdle hdata rfl (.inl rfl) nofun nofun rfl rfl

/-! ### No state with the invariant is stopped -/

/-- A tick row never faults in the sense of the model's own faults: it answers a next state or is refused. -/
theorem State.tickRow_ne_fault (s : State) (t : BitVec 5) (o : Cst → Dst → State → State) (f : Fault) :
    s.tickRow t o ≠ .fault f := by
  simp only [State.tickRow]
  split
  · split <;> nofun
  · nofun

theorem exec_ne_fault (i : Instr) (s : State) (f : Fault) : exec i s ≠ .fault f := by
  cases i
  case tickFeed | tickXferA | tickXferB | tickDrainA | tickDrainB | tickDrainC | tickDrainD =>
    exact s.tickRow_ne_fault _ _ f
  case tickIdleA | tickIdleB | tickIdleC | tickIdleD => exact s.tickRow_ne_fault _ (fun _ _ s => s) f
  all_goals nofun

/-- Between runs the model raises none of its own faults. -/
theorem step_ne_fault_of_idle {s : State} (hq : s.seq = .idle) (f : Fault) : step s ≠ .fault f := by
  have hserve : s.serveHost ≠ .fault f := by
    simp only [State.serveHost]
    split
    · nofun
    · split_ifs <;> nofun
    · nofun
    · simp only [fetchFrame]
      split <;> nofun
  have hnext : s.nextOp ≠ .fault f := by simpa only [State.nextOp, hq] using hserve
  simp only [step, stepWith]
  split
  · nofun
  · next f' hf => exact fun heq => hnext (by cases heq; exact hf)
  · nofun
  · next i _ =>
    have hexec := exec_ne_fault i s.issued
    split <;> simp_all

/-- At the head of a loop a run goes on: with a tick, a fault of the budget, the drain phase or the closing snapshot. -/
theorem State.Looping.step_loopHead (e : Env) {s : State} (hl : s.Looping) (hq : s.seq = .loopHead) :
    ∃ t, StepCase e s t := by
  cases hg : s.loopGoes with
  | true =>
    cases hb : s.budgetSpent with
    | true => exact ⟨_, .budgetHit hq hl.inRun hg hb⟩
    | false => exact ⟨_, .tickStart hq hl.inRun hg hb⟩
  | false =>
    rcases hl.phase with hp | hp
    · cases hm : s.args.termMode with
      | inputOnly => exact ⟨_, .closeStart hq hl.inRun hg (.inr hm)⟩
      | drainToLength => exact ⟨_, .drainStart hq hl.inRun hg hp hm⟩
    · exact ⟨_, .closeStart hq hl.inRun hg (.inl hp)⟩

/-- A run always goes on from a state with the invariant. -/
theorem State.Inv.run_goes_on (e : Env) {s : State} (h : s.Inv) (hq : s.seq ≠ .idle) : ∃ t, StepCase e s t := by
  cases hs : s.seq with
  | idle => exact absurd hs hq
  | resetC => exact ⟨_, .resetC hs⟩
  | resetD => exact ⟨_, .resetD hs⟩
  | clearCycle => exact ⟨_, .clearCycle hs⟩
  | clearInstr => exact ⟨_, .clearInstr hs⟩
  | baseCycle => exact ⟨_, .baseCycle hs⟩
  | baseInstr => exact ⟨_, .pumpStart hs⟩
  | loopHead => exact (h.looping hq (by rw [hs]; rfl)).step_loopHead e hs
  | readD => exact ⟨_, .secondRead hs⟩
  | decide =>
    obtain ⟨c, hc⟩ := Option.isSome_iff_exists.1 (h.cstLive.2 (.inr hs))
    obtain ⟨d, hd⟩ := Option.isSome_iff_exists.1 (h.dstLive.2 hs)
    exact ⟨_, .outcome c d hs hc hd (h.looping hq (by rw [hs]; rfl)).inRun⟩
  | closeCycle => exact ⟨_, .closeCycle hs⟩
  | closeInstr => exact ⟨_, .closeInstr hs⟩
  | finish =>
    obtain ⟨a, h0⟩ := Option.isSome_iff_exists.1 (h.s0Taken hq (by rw [hs]; rfl))
    obtain ⟨b, h1⟩ := Option.isSome_iff_exists.1 (h.s1Taken hs)
    exact ⟨_, .runEnd a b hs h0 h1⟩

/-- Settles O41: a run goes on, and between runs only a request of the host can be refused. -/
theorem invariantStatesNeverStop : Obligations.InvariantStatesNeverStop := by
  unfold Obligations.InvariantStatesNeverStop
  intro s h
  by_cases hq : s.seq = .idle
  · refine ⟨step_ne_fault_of_idle hq, fun r hr => ⟨hq, fun hport => ?_⟩⟩
    rw [(StepCase.noRequest hq hport).step_eq] at hr
    cases hr
  · obtain ⟨t, ht⟩ := h.run_goes_on Config.env hq
    rw [ht.step_eq]
    exact ⟨nofun, nofun⟩

/-! ### A faulted run -/

/-- Settles O44: FAULTED is a phase between runs, in which no run can start and an operation of the host touches the
registers, the units and what goes back to the host only. -/
theorem faultedRunDoesNotResume : Obligations.FaultedRunDoesNotResume := by
  unfold Obligations.FaultedRunDoesNotResume
  intro s t h hp hstep
  have hq : s.seq = .idle := by
    by_contra hne
    cases hpro : s.seq.isPrologue with
    | true => simpa [hp] using h.phasePrologue hpro
    | false => simpa [hp] using h.phaseLoop hne hpro
  cases step_cases hstep with
  | noRequest => simp [hp, hq]
  | runStart a rest _ _ hi => exact absurd (hp.symm.trans hi) (by decide)
  | resultsTaken rest _ hport =>
    rw [State.takeResults, if_pos (.inr hp)]
    simp [hport, hq]
  | hostOp f rest i t _ _ _ hx =>
    obtain ⟨w, r, c, rfl, -⟩ := h.hostOp hq hx
    simp [hp, hq]
  -- every other case stands at a position of a run
  | _ => simp_all

end Sys2Proof.Machine
end

section
/-! What a step of a run does not depend on: the host's requests (R66), a budget that is not used up (R162), and inside the
loops the counters (R188). -/

namespace Sys2Proof.Machine

/-! ### The same state otherwise -/

/-- The same state with other counter values, another budget and other requests waiting. -/
def State.vary (c i : Nat) (b : Option Nat) (q : List HostReq) (s : State) : State :=
  ((s.withCounters c i).withBudget b).withPort q

theorem State.withCounters_eq_vary (c i : Nat) (s : State) :
    s.withCounters c i = s.vary c i s.args.tickBudget s.port := rfl

theorem State.endTick_vary (c i : Nat) (b : Option Nat) (q : List HostReq) (s : State) :
    (s.vary c i b q).endTick = s.endTick.vary c i b q := by
  by_cases hf : s.fault = .none
  · rw [State.endTick_of_none hf, State.endTick_of_none (s := s.vary c i b q) hf]
    rfl
  · rw [State.endTick_of_fault hf, State.endTick_of_fault (s := s.vary c i b q) hf]

/-- From `s` varied `u` is `t` varied in the same way, with the counters of `t` if they were those of `s`. -/
def State.VariesTo (s t : State) (c i : Nat) (b : Option Nat) (q : List HostReq) (u : State) : Prop :=
  ∃ c' i', u = t.vary c' i' b q ∧ (c = s.world.cyc → i = s.world.ins → c' = t.world.cyc ∧ i' = t.world.ins)

/-- Where the counters were those of `s`, they are those of `t`. -/
theorem State.VariesTo.eq {s t u : State} {b : Option Nat} {q : List HostReq}
    (h : s.VariesTo t s.world.cyc s.world.ins b q u) : u = t.vary t.world.cyc t.world.ins b q := by
  obtain ⟨c', i', rfl, hsame⟩ := h
  obtain ⟨rfl, rfl⟩ := hsame rfl rfl
  rfl

/-- An outcome and the end of its tick read neither the counters, the budget nor the requests (R66, R188). -/
theorem State.outcome_vary (e : Env) (x : Cst) (d : Dst) (s : State) (c i : Nat) (b : Option Nat) (q : List HostReq) :
    s.VariesTo (s.outcome e x d).endTick c i b q ((s.vary c i b q).outcome e x d).endTick := by
  have ended : ∀ {t u : State}, s.VariesTo t c i b q u → s.VariesTo t.endTick c i b q u.endTick := by
    rintro t _ ⟨c', i', rfl, hsame⟩
    obtain ⟨hworld, -⟩ := t.endTick_frame
    exact ⟨c', i', t.endTick_vary .., hworld ▸ hsame⟩
  refine ended ?_
  obtain ⟨k, hk⟩ : ∃ k, s.selects x d k := by
    obtain ⟨h, -⟩ | ⟨h, -⟩ | ⟨h, -⟩ | ⟨h, -⟩ := s.outcome_selected e x d <;> exact ⟨_, h⟩
  have hk' : (s.vary c i b q).selects x d k := hk
  rw [(State.outcome_of_selects e hk).1, (State.outcome_of_selects e hk').1]
  cases k with
  | feed =>
    obtain ⟨y, hy⟩ := State.nextByte_isSome ((State.outcome_of_selects e hk).2 rfl)
    rw [State.perform, State.perform, State.feed_of_byte e hy, State.feed_of_byte e (s := s.vary c i b q) hy]
    exact ⟨_, _, rfl, by rintro rfl rfl; exact ⟨rfl, rfl⟩⟩
  | xfer => exact ⟨_, _, rfl, by rintro rfl rfl; exact ⟨rfl, rfl⟩⟩
  | drain =>
    obtain ⟨hlen, h⟩ | ⟨hlen, hroom, h⟩ | ⟨hlen, hroom, h⟩ := s.drain_cases e d
    · rw [State.perform, State.perform, h, State.drain_of_long e (s.vary c i b q) hlen]
      exact ⟨_, _, rfl, by rintro rfl rfl; exact ⟨rfl, rfl⟩⟩
    · rw [State.perform, State.perform, h, State.drain_of_full e (s := s.vary c i b q) hlen hroom]
      exact ⟨_, _, rfl, by rintro rfl rfl; exact ⟨rfl, rfl⟩⟩
    · rw [State.perform, State.perform, h, State.drain_of_room e (s := s.vary c i b q) hlen hroom]
      exact ⟨_, _, rfl, by rintro rfl rfl; exact ⟨rfl, rfl⟩⟩
  | idle => exact ⟨_, _, rfl, fun hc hi => ⟨hc, hi⟩⟩

/-- An outcome and the end of its tick change neither the arguments nor the host's requests (R41, R66). -/
theorem State.outcome_keepsHost (e : Env) (x : Cst) (d : Dst) {s : State} (hf : s.fault = .none) :
    (s.outcome e x d).endTick.args = s.args ∧ (s.outcome e x d).endTick.port = s.port := by
  obtain ⟨w, i, o, b, m, heq⟩ | ⟨w, f, i, -, heq⟩ := s.outcome_ends e x d hf <;> rw [heq] <;> exact ⟨rfl, rfl⟩

/-! ### Other counters -/

/-- Settles O51: no move of the loops reads a counter. -/
theorem countersDoNotSteer : Obligations.CountersDoNotSteer := by
  unfold Obligations.CountersDoNotSteer
  intro s t c i hq hstep
  have follow : ∀ {u}, StepCase Config.env (s.withCounters c i) u → (∃ c' i', u = t.withCounters c' i') →
      ∃ c' i', step (s.withCounters c i) = .next (t.withCounters c' i') := by
    rintro _ hcase ⟨c', i', rfl⟩
    exact ⟨c', i', hcase.step_eq⟩
  cases step_cases hstep with
  | tickStart hq hr hg hb => exact follow (.tickStart hq hr hg hb) ⟨_, _, rfl⟩
  | budgetHit hq hr hg hb => exact follow (.budgetHit hq hr hg hb) ⟨_, _, rfl⟩
  | drainStart hq hr hg hp hm => exact follow (.drainStart hq hr hg hp hm) ⟨_, _, rfl⟩
  | closeStart hq hr hg hm => exact follow (.closeStart hq hr hg hm) ⟨_, _, rfl⟩
  | faultSeen hq hp hf => exact follow (.faultSeen hq hp hf) ⟨_, _, rfl⟩
  | secondRead hq => exact follow (.secondRead hq) ⟨_, _, rfl⟩
  | outcome x d hq hc hd hr =>
    obtain ⟨c', i', heq, -⟩ := s.outcome_vary Config.env x d c i s.args.tickBudget s.port
    obtain ⟨hargs, hport⟩ := s.outcome_keepsHost Config.env x d (s.inRun_iff.1 hr).2
    refine follow (.outcome x d hq hc hd hr) ⟨c', i', heq.trans ?_⟩
    rw [State.withCounters_eq_vary, hargs, hport]
  -- every other case stands outside the loops
  | _ => simp_all

/-! ### Other requests, another budget -/

/-- A step of a run changes neither the arguments nor the host's requests (R41, R66). -/
theorem StepCase.keepsHost {e : Env} {s t : State} (h : StepCase e s t) (hq : s.seq ≠ .idle) :
    t.args = s.args ∧ t.port = s.port := by
  cases h with
  | noRequest hq' | runStart _ _ hq' | resultsTaken _ hq' | hostOp _ _ _ _ hq' => exact absurd hq' hq
  | outcome c d _ _ _ hr => exact s.outcome_keepsHost e c d (s.inRun_iff.1 hr).2
  | resetC | resetD | clearCycle | clearInstr | baseCycle | pumpStart | tickStart | budgetHit | drainStart | closeStart
  | faultSeen | secondRead | closeCycle | closeInstr | runEnd => exact ⟨rfl, rfl⟩

/-- A step of a run is the same step with other requests waiting, and with another budget that is as much used up where a
tick would begin. -/
theorem StepCase.vary {e : Env} {s t : State} (h : StepCase e s t) (hq : s.seq ≠ .idle) {b : Option Nat} (q : List HostReq)
    (hb : s.seq = .loopHead → s.loopGoes = true → (s.withBudget b).budgetSpent = s.budgetSpent) :
    StepCase e ((s.withBudget b).withPort q) ((t.withBudget b).withPort q) := by
  cases h with
  | noRequest hq' | runStart _ _ hq' | resultsTaken _ hq' | hostOp _ _ _ _ hq' => exact absurd hq' hq
  | resetC hq => exact .resetC hq
  | resetD hq => exact .resetD hq
  | clearCycle hq => exact .clearCycle hq
  | clearInstr hq => exact .clearInstr hq
  | baseCycle hq => exact .baseCycle hq
  | pumpStart hq => exact .pumpStart hq
  | tickStart hq hr hg hs => exact .tickStart hq hr hg ((hb hq hg).trans hs)
  | budgetHit hq hr hg hs => exact .budgetHit hq hr hg ((hb hq hg).trans hs)
  | drainStart hq hr hg hp hm => exact .drainStart hq hr hg hp hm
  | closeStart hq hr hg hm => exact .closeStart hq hr hg hm
  | faultSeen hq hp hf => exact .faultSeen hq hp hf
  | secondRead hq => exact .secondRead hq
  | outcome c d hq hc hd hr =>
    have heq : (((s.withBudget b).withPort q).outcome e c d).endTick
        = ((s.outcome e c d).endTick.withBudget b).withPort q := (s.outcome_vary e c d s.world.cyc s.world.ins b q).eq
    rw [← heq]
    exact .outcome c d hq hc hd hr
  | closeCycle hq => exact .closeCycle hq
  | closeInstr hq => exact .closeInstr hq
  | runEnd x y hq h0 h1 => exact .runEnd x y hq h0 h1

/-- Settles O53: only a position between runs reads the port. -/
theorem portIsNotReadDuringRuns : Obligations.PortIsNotReadDuringRuns := by
  unfold Obligations.PortIsNotReadDuringRuns
  intro s t p hq hstep
  have hcase := step_cases hstep
  obtain ⟨hargs, hport⟩ := hcase.keepsHost hq
  have hvary := hcase.vary hq (b := s.args.tickBudget) p fun _ _ => rfl
  have ht : (t.withBudget s.args.tickBudget).withPort p = t.withPort p := by
    rw [← hargs]
    rfl
  exact ⟨hport, hargs, StepCase.step_eq (ht ▸ hvary)⟩

/-- Settles O34: a budget is read where a tick would begin, and there it is not used up. -/
theorem budgetNotHitChangesNothing : Obligations.BudgetNotHitChangesNothing := by
  unfold Obligations.BudgetNotHitChangesNothing
  intro s t n hq hnone hleft hstep
  have hcase := step_cases hstep
  obtain ⟨-, hport⟩ := hcase.keepsHost hq
  have hspent : s.seq = .loopHead → s.loopGoes = true → (s.withBudget (some n)).budgetSpent = s.budgetSpent := by
    intro hhead hg
    have hlt := hleft hhead hg
    simp [State.budgetSpent, hnone, Nat.not_le.2 hlt]
  have hvary := hcase.vary hq s.port hspent
  have ht : (t.withBudget (some n)).withPort s.port = t.withBudget (some n) := by
    rw [← hport]
    rfl
  exact StepCase.step_eq (ht ▸ hvary)

end Sys2Proof.Machine
end

section
/-! RUN as its rule writes it is what the steps do (R158, R160, R165). -/

namespace Sys2Proof.Machine

/-! ### The two loops as one -/

/-- A loop that goes on while `goes` holds, at most so many ticks of it: `PUMP_LOOP` and `DRAIN_LOOP` differ in their
condition only (R158, R160). -/
def State.loopWhile (e : Env) (goes : State → Bool) : Nat → State → Option State
  | 0, s => if goes s = true ∧ s.fault = .none then none else some s
  | n + 1, s =>
    if goes s = true ∧ s.fault = .none then
      if s.budgetCheck.fault = .none then State.loopWhile e goes n (s.budgetCheck.tick e)
      else State.loopWhile e goes n s.budgetCheck
    else some s

theorem State.pumpLoop_eq (e : Env) (n : Nat) (s : State) : s.pumpLoop e n = State.loopWhile e State.more n s := by
  induction n generalizing s with
  | zero => rfl
  | succ n ih => simp only [State.pumpLoop, State.loopWhile, ih]

theorem State.drainLoop_eq (e : Env) (n : Nat) (s : State) :
    s.drainLoop e n = State.loopWhile e (fun s => decide (s.outCur < s.args.expectLen)) n s := by
  induction n generalizing s with
  | zero => simp only [State.drainLoop, State.loopWhile, decide_eq_true_eq]
  | succ n ih => simp only [State.drainLoop, State.loopWhile, ih, decide_eq_true_eq]

/-- A loop ends at once when its condition is false or a fault was raised. -/
theorem State.loopWhile_stop (e : Env) {goes : State → Bool} (n : Nat) {s : State}
    (h : ¬(goes s = true ∧ s.fault = .none)) : State.loopWhile e goes n s = some s := by
  cases n <;> rw [State.loopWhile, if_neg h]

/-! ### How a loop ends -/

/-- A loop begun in `s` has ended in `u`: at its head, its condition false, with what the run keeps; or with a fault. -/
inductive State.EndsLoop (s u : State) : Prop
  | finished (hq : u.seq = .loopHead) (hr : u.inRun = true) (hp : u.phase = s.phase) (hg : u.loopGoes = false)
      (h0 : u.s0 = s.s0)
  | faulted (hq : u.seq = .idle) (hp : u.phase = .faulted) (hf : u.fault ≠ .none)

/-- A tick ends at the head of its loop or with a fault (R150, R216). -/
theorem State.tick_ends (e : Env) {s : State} (hf : s.fault = .none) :
    ((s.tick e).seq = .loopHead ∧ (s.tick e).fault = .none ∧ (s.tick e).phase = s.phase ∧ (s.tick e).s0 = s.s0) ∨
    ((s.tick e).seq = .idle ∧ (s.tick e).phase = .faulted ∧ (s.tick e).fault ≠ .none) := by
  let b := (s.read e .cStat).read e .dStat
  have hfb : b.fault = .none := hf
  rw [State.tick]
  obtain ⟨w, i, o, m, l, heq⟩ | ⟨w, f, i, hne, heq⟩ := b.outcome_ends e (decCst s.params (s.read e .cStat).rdata)
    (decDst s.params b.rdata) hfb <;> rw [heq]
  · exact .inl ⟨rfl, hf, rfl, rfl⟩
  · exact .inr ⟨rfl, rfl, hne⟩

/-- Whenever the loop as the rule writes it ends, the steps lead to where it ends: a used-up budget is one step, a tick is
three. -/
theorem reaches_loopWhile (e : Env) {goes : State → Bool} {u : State} (n : Nat) {s : State} (hq : s.seq = .loopHead)
    (hr : s.inRun = true) (hgoes : ∀ v, v.phase = s.phase → goes v = v.loopGoes)
    (h : State.loopWhile e goes n s = some u) : Reaches e s u ∧ s.EndsLoop u := by
  induction n generalizing s with
  | zero =>
    have hoff : ¬(goes s = true ∧ s.fault = .none) := fun hon => by
      rw [State.loopWhile, if_pos hon] at h
      cases h
    rw [State.loopWhile_stop e 0 hoff] at h
    obtain rfl : s = u := Option.some.inj h
    have hg : s.loopGoes = false := by
      rw [← hgoes s rfl, ← Bool.not_eq_true]
      exact fun hg => hoff ⟨hg, (s.inRun_iff.1 hr).2⟩
    exact ⟨.refl e s, .finished hq hr rfl hg rfl⟩
  | succ n ih =>
    have hf := (s.inRun_iff.1 hr).2
    cases hg : s.loopGoes with
    | false =>
      rw [State.loopWhile_stop e _ (by rw [hgoes s rfl, hg]; nofun)] at h
      obtain rfl : s = u := Option.some.inj h
      exact ⟨.refl e s, .finished hq hr rfl hg rfl⟩
    | true =>
      rw [State.loopWhile, if_pos ⟨(hgoes s rfl).trans hg, hf⟩] at h
      cases hb : s.budgetSpent with
      | true =>
        have hraise : s.budgetCheck = s.raise .stallBudget (.ticks s.ticks) := if_pos hb
        rw [hraise, if_neg (by simp), State.loopWhile_stop e n (by simp)] at h
        cases h
        exact ⟨.of_step (StepCase.budgetHit hq hr hg hb).stepIn_eq, .faulted rfl rfl (by simp)⟩
      | false =>
        have hgo : s.budgetCheck = s := if_neg (by simp [hb])
        have htick : Reaches e s (s.tick e) := ⟨3, threeStepsAreOneTick e s hq hr hg hb⟩
        rw [hgo, if_pos hf] at h
        obtain ⟨hq', hf', hp', h0'⟩ | ⟨hq', hp', hf'⟩ := State.tick_ends e hf
        · have hr' : (s.tick e).inRun = true := (State.inRun_iff _).2 ⟨hp' ▸ (s.inRun_iff.1 hr).1, hf'⟩
          obtain ⟨hreach, hends⟩ := ih hq' hr' (fun v hv => hgoes v (hv.trans hp')) h
          refine ⟨htick.trans hreach, ?_⟩
          cases hends with
          | finished hq hr hp hg h0 => exact .finished hq hr (hp.trans hp') hg (h0.trans h0')
          | faulted hq hp hf => exact .faulted hq hp hf
        · rw [State.loopWhile_stop e n fun hon => hf' hon.2] at h
          cases h
          exact ⟨htick, .faulted hq' hp' hf'⟩

/-- `PUMP_LOOP` (R158). -/
theorem reaches_pumpLoop (e : Env) {n : Nat} {s u : State} (hq : s.seq = .loopHead) (hr : s.inRun = true)
    (hp : s.phase = .pump) (h : s.pumpLoop e n = some u) : Reaches e s u ∧ s.EndsLoop u := by
  rw [State.pumpLoop_eq] at h
  exact reaches_loopWhile e n hq hr (fun v hv => by simp only [State.loopGoes, hv, hp]) h

/-- `DRAIN_LOOP` (R160). -/
theorem reaches_drainLoop (e : Env) {n : Nat} {s u : State} (hq : s.seq = .loopHead) (hr : s.inRun = true)
    (hp : s.phase = .draining) (h : s.drainLoop e n = some u) : Reaches e s u ∧ s.EndsLoop u := by
  rw [State.drainLoop_eq] at h
  exact reaches_loopWhile e n hq hr (fun v hv => by simp only [State.loopGoes, hv, hp]) h

/-! ### The run -/

/-- From the end of its last loop a run takes the closing snapshot and ends (R165, R184). -/
theorem reaches_close (e : Env) {s : State} {x : Sample} (hq : s.seq = .loopHead) (hr : s.inRun = true)
    (hg : s.loopGoes = false) (hm : s.phase = .draining ∨ s.args.termMode = .inputOnly) (h0 : s.s0 = some x) :
    Reaches e s ((s.pcSnapshot e).2.closeRun x (s.pcSnapshot e).1) :=
  (Reaches.of_step (StepCase.closeStart hq hr hg hm).stepIn_eq).trans (reaches_closeRun e h0)

/-- What RUN does from the end of its pump on, with the baseline `x` (R165). -/
def State.afterPump (e : Env) (fuel : Nat) (x : Sample) (s : State) : Option State :=
  (if s.fault = .none ∧ s.args.termMode = .drainToLength then State.drainLoop e fuel { s with phase := .draining }
    else some s).bind fun s =>
    if s.fault = .none then some ((s.pcSnapshot e).2.closeRun x (s.pcSnapshot e).1) else some s

theorem State.runWhole_eq (e : Env) (fuel : Nat) (a : RunArgs) (s : State) :
    s.runWhole e fuel a = (((s.startRun a).prologue e).pumpLoop e fuel).bind
      (State.afterPump e fuel ((((s.startRun a).read e .cRst).read e .dRst).pcReset e |>.pcSnapshot e).1) := rfl

/-- A run that has ended: no position, and `phase` DONE or FAULTED (R31). -/
def State.ended (s : State) : Prop := s.seq = .idle ∧ (s.phase = .done ∨ s.phase = .faulted)

/-- The steps go through what comes after the pump, too: the drain phase, if there is one, and the end of the run. -/
theorem reaches_afterPump (e : Env) {fuel : Nat} {x : Sample} {s u r : State} (hp : s.phase = .pump) (h0 : s.s0 = some x)
    (hends : s.EndsLoop u) (h : u.afterPump e fuel x = some r) : Reaches e u r ∧ r.ended := by
  rw [State.afterPump] at h
  cases hends with
  | faulted hq hp hf =>
    rw [if_neg (fun hand => hf hand.1), Option.bind_some, if_neg hf] at h
    cases h
    exact ⟨.refl e u, hq, .inr hp⟩
  | finished hq hr hpu hg hu0 =>
    have hf := (u.inRun_iff.1 hr).2
    cases hm : u.args.termMode with
    | inputOnly =>
      rw [if_neg (by simp [hm]), Option.bind_some, if_pos hf] at h
      cases h
      exact ⟨reaches_close e hq hr hg (.inr hm) (hu0.trans h0), rfl, .inl rfl⟩
    | drainToLength =>
      rw [if_pos ⟨hf, hm⟩, Option.bind_eq_some_iff] at h
      obtain ⟨v, hloop, h⟩ := h
      have hstart : Reaches e u { u with phase := .draining } :=
        .of_step (StepCase.drainStart hq hr hg (hpu.trans hp) hm).stepIn_eq
      obtain ⟨hdrain, hends⟩ := reaches_drainLoop e (s := { u with phase := .draining }) hq
        ((State.inRun_iff _).2 ⟨.inr rfl, hf⟩) rfl hloop
      cases hends with
      | faulted hq hp hf =>
        rw [if_neg hf] at h
        cases h
        exact ⟨hstart.trans hdrain, hq, .inr hp⟩
      | finished hq hr hpv hg hv0 =>
        rw [if_pos (v.inRun_iff.1 hr).2] at h
        cases h
        have hclose := reaches_close e hq hr hg (.inl hpv) (hv0.trans (hu0.trans h0))
        exact ⟨hstart.trans (hdrain.trans hclose), rfl, .inl rfl⟩

/-- Settles O35: the request, the accesses before the pump, the pump, and what comes after it. -/
theorem stepsFollowRun : Obligations.StepsFollowRun := by
  unfold Obligations.StepsFollowRun
  intro e s r a rest fuel hq hi hp hl hrun
  rw [State.runWhole_eq, Option.bind_eq_some_iff] at hrun
  obtain ⟨u, hloop, hafter⟩ := hrun
  let b := ({ s with port := rest }.startRun a)
  have hr : (b.prologue e).inRun = true := (State.inRun_iff _).2 ⟨.inl rfl, rfl⟩
  obtain ⟨hpump, hends⟩ := reaches_pumpLoop e rfl hr rfl hloop
  obtain ⟨hrest, hended⟩ := reaches_afterPump e rfl rfl hends hafter
  have hstart : Reaches e s b := .of_step (StepCase.runStart a rest hq hp hi hl).stepIn_eq
  obtain ⟨n, hn⟩ := hstart.trans <| (reaches_prologue e rfl).trans <| hpump.trans hrest
  exact ⟨n, hn, hended⟩

end Sys2Proof.Machine
end

section
/-! A stall (R211): with dead units and no budget a run that waits in the pump ticks and does nothing else. -/

namespace Sys2Proof.Machine

/-- In the pump of the run of `s`, with nothing fed and nothing stored since: at the head of the loop or inside a tick whose
status records show no flag. -/
structure State.Stalled (s t : State) : Prop where
  phase : t.phase = .pump
  fault : t.fault = .none
  args : t.args = s.args
  inCur : t.inCur = s.inCur
  outCur : t.outCur = s.outCur
  outBuf : t.outBuf = s.outBuf
  position : t.seq = .loopHead ∨ ∃ c, t.cst = some c ∧ c.inputReady = false ∧ c.outputValid = false ∧
    (t.seq = .readD ∨ t.seq = .decide ∧ ∃ d, t.dst = some d ∧ d.outputValid = false)

section
variable (dc di word : List Access → Nat)

/-- A status word of a dead unit is 0, which has no flag. -/
theorem deadUnit_cStat (s : State) : (s.read (unitsEnv deadUnit deadUnit dc di word) .cStat).rdata = 0 := Nat.zero_mod _

theorem deadUnit_dStat (s : State) : (s.read (unitsEnv deadUnit deadUnit dc di word) .dStat).rdata = 0 := Nat.zero_mod _

theorem flagOf_zero (i : Nat) : flagOf 0 i = false := by simp [flagOf_eq]

/-- A step of a stalled run leads to a stalled run. -/
theorem State.Stalled.step {s t : State} (h : s.Stalled t) (hleft : s.inCur < s.args.inLen)
    (hnone : s.args.tickBudget = none) :
    ∃ u, stepIn (unitsEnv deadUnit deadUnit dc di word) t = .next u ∧ s.Stalled u := by
  obtain ⟨hphase, hfault, hargs, hin, hout, hbuf, hpos⟩ := h
  have hr : t.inRun = true := t.inRun_iff.2 ⟨.inl hphase, hfault⟩
  obtain hq | ⟨c, hc, hready, hvalid, hq | ⟨hq, d, hd, hdvalid⟩⟩ := hpos
  · have hg : t.loopGoes = true := by
      simp only [State.loopGoes, hphase, State.more, decide_eq_true_eq, hargs, hin]
      exact hleft
    have hb : t.budgetSpent = false := by simp only [State.budgetSpent, hargs, hnone]
    refine ⟨_, (StepCase.tickStart hq hr hg hb).stepIn_eq, hphase, hfault, hargs, hin, hout, hbuf,
      .inr ⟨_, rfl, ?_, ?_, .inl rfl⟩⟩ <;> rw [deadUnit_cStat] <;> exact flagOf_zero _
  · refine ⟨_, (StepCase.secondRead hq).stepIn_eq, hphase, hfault, hargs, hin, hout, hbuf,
      .inr ⟨c, hc, hready, hvalid, .inr ⟨rfl, _, rfl, ?_⟩⟩⟩
    rw [deadUnit_dStat]
    exact flagOf_zero _
  · have hidle : t.outcome (unitsEnv deadUnit deadUnit dc di word) c d = t := by
      simp [State.outcome, hready, hvalid, hdvalid]
    refine ⟨_, (StepCase.outcome c d hq hc hd hr).stepIn_eq, ?_⟩
    rw [hidle, State.endTick_of_none hfault]
    exact ⟨hphase, hfault, hargs, hin, hout, hbuf, .inl rfl⟩

theorem State.Stalled.runIn {s : State} (hleft : s.inCur < s.args.inLen) (hnone : s.args.tickBudget = none) (n : Nat) :
    ∀ {t : State}, s.Stalled t → ∃ u, runIn (unitsEnv deadUnit deadUnit dc di word) n t = .next u ∧ s.Stalled u := by
  induction n with
  | zero => exact fun {t} h => ⟨t, rfl, h⟩
  | succ n ih =>
    intro t h
    obtain ⟨u, hstep, hu⟩ := h.step dc di word hleft hnone
    rw [runIn_succ _ n hstep]
    exact ih hu

end

/-- Settles O37: a stalled run stays one, step by step. -/
theorem deadUnitsStallForever : Obligations.DeadUnitsStallForever := by
  unfold Obligations.DeadUnitsStallForever
  intro dc di word s n hq hp hf hleft hnone
  obtain ⟨t, hrun, hphase, hfault, -, hin, hout, hbuf, hpos⟩ :=
    State.Stalled.runIn dc di word hleft hnone n (s := s) (t := s) ⟨hp, hf, rfl, rfl, rfl, rfl, .inl hq⟩
  have hseq : t.seq ≠ .idle := by
    obtain h | ⟨-, -, -, -, h | ⟨h, -⟩⟩ := hpos <;> rw [h] <;> nofun
  exact ⟨t, hrun, hphase, hfault, hseq, hin, hout, fun a => by rw [hbuf]⟩

end Sys2Proof.Machine
end

section
/-! The counters over several accesses (R186 to R189): the draws before each access add up, as long as no access writes a
counter. -/

namespace Sys2Proof.Machine

/-! ### Accesses that only advance the counters -/

theorem drawSum_append (draw : List Access → Nat) (h a b : List Access) :
    drawSum draw h (b ++ a) = drawSum draw h a + drawSum draw (a ++ h) b := by
  induction b with
  | nil => rfl
  | cons x b ih =>
    simp only [List.cons_append, drawSum, ih, List.append_assoc]
    omega

/-- From `w` to `w'` the accesses `new` are made, latest first, and both counters only advance by their draws (R188). -/
structure World.Advances (p : Params) (e : Env) (w w' : World) (new : List Access) : Prop where
  trace : w'.trace = new ++ w.trace
  cyc : w'.cyc = (w.cyc + drawSum e.cycleDraw w.trace new) % 2 ^ p.W
  ins : w'.ins = (w.ins + drawSum e.instrDraw w.trace new) % 2 ^ p.W

theorem World.Advances.none {p : Params} {w : World} (e : Env) (h : w.fits p) : w.Advances p e w [] :=
  ⟨rfl, (Nat.mod_eq_of_lt h.1).symm, (Nat.mod_eq_of_lt h.2).symm⟩

theorem World.Advances.trans {p : Params} {e : Env} {w w' w'' : World} {a b : List Access} (h : w.Advances p e w' a)
    (h' : w'.Advances p e w'' b) : w.Advances p e w'' (b ++ a) := by
  obtain ⟨htrace, hcyc, hins⟩ := h
  obtain ⟨htrace', hcyc', hins'⟩ := h'
  refine ⟨by rw [htrace', htrace, List.append_assoc], ?_, ?_⟩
  · rw [hcyc', htrace, hcyc, Nat.mod_add_mod, drawSum_append, Nat.add_assoc]
  · rw [hins', htrace, hins, Nat.mod_add_mod, drawSum_append, Nat.add_assoc]

/-- A single access that advances the counters by its draws. -/
theorem World.advances_access {p : Params} {e : Env} {w w' : World} (a : Access) (ht : w'.trace = a :: w.trace)
    (hc : w'.cyc = (w.tickOver p e).cyc) (hi : w'.ins = (w.tickOver p e).ins) : w.Advances p e w' [a] :=
  ⟨ht, by simp [hc, drawSum], by simp [hi, drawSum]⟩

theorem World.regRead_advances (p : Params) (e : Env) (r : ReadReg) (w : World) :
    w.Advances p e (w.regRead p e r).2 [.read r (w.regRead p e r).1] :=
  World.advances_access _ (w.regRead_trace p e r) (w.regRead_cyc p e r) (w.regRead_ins p e r)

theorem World.cWriteInputs_advances (p : Params) (e : Env) (f : Cctl) (w : World) :
    w.Advances p e (w.cWriteInputs p e f) [.write .cCtrl (encCctl p f)] :=
  World.advances_access _ (w.cWriteInputs_trace p e f) rfl rfl

theorem World.dWriteInputs_advances (p : Params) (e : Env) (f : Dctl) (w : World) :
    w.Advances p e (w.dWriteInputs p e f) [.write .dCtrl (encDctl p f)] :=
  World.advances_access _ (w.dWriteInputs_trace p e f) rfl rfl

/-! ### A tick -/

/-- The registers a tick accesses (R187). -/
def Access.ofTick (a : Access) : Prop :=
  ∃ v, a = .read .cStat v ∨ a = .read .dStat v ∨ a = .write .cCtrl v ∨ a = .write .dCtrl v

/-- The writes of an outcome go to the control registers, and the counters only advance. -/
theorem State.outcome_counters (e : Env) (c : Cst) (d : Dst) {s : State} (h : s.world.fits s.params) :
    ∃ ws, (∀ a ∈ ws, Access.ofTick a) ∧ s.world.Advances s.params e (s.outcome e c d).world ws := by
  have writeC : ∀ v, Access.ofTick (.write .cCtrl v) := fun v => ⟨v, .inr (.inr (.inl rfl))⟩
  have writeD : ∀ v, Access.ofTick (.write .dCtrl v) := fun v => ⟨v, .inr (.inr (.inr rfl))⟩
  obtain ⟨-, -, hm, ho⟩ | ⟨-, -, -, ho⟩ | ⟨-, -, ho⟩ | ⟨-, ho⟩ := s.outcome_selected e c d <;> rw [ho]
  case inl =>
    obtain ⟨b, hb⟩ := State.nextByte_isSome hm
    rw [State.feed_of_byte e hb]
    exact ⟨_, by simp [writeC], World.cWriteInputs_advances ..⟩
  case inr.inl =>
    exact ⟨_, by simp [writeC, writeD], (World.cWriteInputs_advances ..).trans (World.dWriteInputs_advances ..)⟩
  case inr.inr.inl =>
    rw [State.drain_world]
    exact ⟨_, by simp [writeD], World.dWriteInputs_advances ..⟩
  case inr.inr.inr => exact ⟨[], by simp, .none e h⟩

/-- Settles O49: the two status reads, then the writes of the outcome. -/
theorem tickOnlyAdvancesCounters : Obligations.TickOnlyAdvancesCounters := by
  unfold Obligations.TickOnlyAdvancesCounters
  intro e s t h
  let a := s.read e .cStat
  let b := a.read e .dStat
  obtain ⟨ws, hws, hwrites⟩ := b.outcome_counters e (decCst s.params a.rdata) (decDst s.params b.rdata)
    (World.regRead_counters_lt ..)
  obtain ⟨hworld, -⟩ := (b.outcome e (decCst s.params a.rdata) (decDst s.params b.rdata)).endTick_frame
  rw [← hworld] at hwrites
  have hreads := (s.world.regRead_advances s.params e .cStat).trans (a.world.regRead_advances s.params e .dStat)
  obtain ⟨htrace, hcyc, hins⟩ := hreads.trans hwrites
  refine ⟨_, htrace, ?_, hcyc, hins⟩
  intro x hx
  rcases List.mem_append.1 hx with hx | hx
  · exact hws x hx
  · simp only [List.cons_append, List.nil_append, List.mem_cons, List.not_mem_nil, or_false] at hx
    rcases hx with rfl | rfl
    · exact ⟨_, .inr (.inl rfl)⟩
    · exact ⟨_, .inl rfl⟩

/-! ### A snapshot and the baseline -/

/-- The counts of a snapshot in the draws of its two accesses (R184). -/
theorem State.pcSnapshot_eq (e : Env) (s : State) :
    let h := s.world.trace
    let c := (s.world.cyc + e.cycleDraw h) % 2 ^ s.params.W
    (s.pcSnapshot e).1 = ⟨c, (s.world.ins + e.instrDraw h + e.instrDraw (.read .cycle c :: h)) % 2 ^ s.params.W⟩ := by
  have hins : ((s.read e .cycle).read e .instr).rdata = _ := World.regRead_instr_word ..
  simp only [State.pcSnapshot, hins]
  simp only [World.tickOver_ins, State.read_world, World.regRead_ins, World.regRead_trace, State.read_rdata,
    World.regRead_cycle_word, World.tickOver_cyc, State.read_params, Nat.mod_add_mod]

/-- The registers after the two clearing writes (R183): the cycle counter has advanced once since it was cleared. -/
theorem State.pcReset_world (e : Env) (s : State) :
    let h := s.world.trace
    (s.pcReset e).world.cyc = e.cycleDraw (.write .cycle 0 :: h) % 2 ^ s.params.W ∧ (s.pcReset e).world.ins = 0
      ∧ (s.pcReset e).world.trace = .write .instr 0 :: .write .cycle 0 :: h := by
  simp [State.pcReset, World.regWrite_cyc, World.regWrite_ins]

/-- The baseline after the accesses `h`, in the draws of its four accesses (R189). -/
def baselineAfter (p : Params) (e : Env) (h : List Access) : Sample :=
  let h2 := .write .cycle 0 :: h
  let h3 := .write .instr 0 :: h2
  let c := (e.cycleDraw h2 + e.cycleDraw h3) % 2 ^ p.W
  ⟨c, (e.instrDraw h3 + e.instrDraw (.read .cycle c :: h3)) % 2 ^ p.W⟩

theorem State.baseline_eq (e : Env) (s : State) :
    ((s.pcReset e).pcSnapshot e).1 = baselineAfter s.params e s.world.trace := by
  obtain ⟨hcyc, hins, htrace⟩ := s.pcReset_world e
  have hparams : (s.pcReset e).params = s.params := rfl
  rw [State.pcSnapshot_eq, hcyc, hins, htrace, hparams, Nat.mod_add_mod, Nat.zero_add]
  rfl

/-- Draws that are functions of the accesses since PC_RESET give every baseline the same counts (R182). -/
theorem baselineAfter_deterministic {e : Env} (he : CountersDeterministic e) (p : Params) (h h' : List Access) :
    baselineAfter p e h = baselineAfter p e h' := by
  obtain ⟨f, g, hdraw⟩ := he
  have h2 := fun h => hdraw (.write .cycle 0 :: h) _ rfl
  have h3 := fun h => hdraw (.write .instr 0 :: .write .cycle 0 :: h) _ rfl
  have h4 := fun c h => hdraw (.read .cycle c :: .write .instr 0 :: .write .cycle 0 :: h) _ rfl
  simp only [baselineAfter, (h2 _).1, (h3 _).1, (h3 _).2, (h4 _ _).2]

/-- Settles O48: the baseline is a function of the accesses before it through the draws only. -/
theorem baselineSample : Obligations.BaselineSample := by
  unfold Obligations.BaselineSample
  intro e s
  refine ⟨s.baseline_eq e, fun s' he hp => ?_⟩
  rw [State.baseline_eq, State.baseline_eq, hp]
  exact baselineAfter_deterministic he ..

/-! ### The bracket -/

/-- What a count moved on by, wrapped or not, modulo `2 ^ n`. -/
theorem trunc_sub_of_moved {n a : Nat} (ha : a < 2 ^ n) (k : Nat) :
    trunc n ((a + k) % 2 ^ n + 2 ^ n - a) = k % 2 ^ n := by
  rw [← Nat.add_mod_mod]
  exact trunc_sub_of_advanced ha (trunc_lt n k)

/-- Settles O50: each count moved on by the draws of the accesses between its baseline read and its closing read. -/
theorem bracketMeasuresItsRegion : Obligations.BracketMeasuresItsRegion := by
  unfold Obligations.BracketMeasuresItsRegion
  intro e region s new a b c W hparams _ hcyc hins
  have hbcyc : b.world.cyc = (a.world.cyc + e.cycleDraw a.world.trace) % 2 ^ W := World.regRead_cyc ..
  have hread : (c.read e .cycle).world.trace
      = .read .cycle ((c.world.cyc + e.cycleDraw c.world.trace) % 2 ^ W) :: c.world.trace := by
    rw [State.read_world, World.regRead_trace, World.regRead_cycle_word, World.tickOver_cyc, hparams]
  have hacyc : a.world.cyc < 2 ^ W := (World.regRead_counters_lt ..).1
  have hbins : b.world.ins < 2 ^ W := (World.regRead_counters_lt ..).2
  have hbracket : (s.bracket e region).1 = pcDelta s.params ⟨a.world.cyc, b.world.ins⟩ (c.pcSnapshot e).1 := rfl
  have hW : s.params.W = W := rfl
  rw [hbracket, c.pcSnapshot_eq e, hparams, hW, ← hread]
  simp only [pcDelta, hW, hcyc, hins, hbcyc, Nat.mod_add_mod, Nat.add_assoc]
  rw [trunc_sub_of_moved hacyc, trunc_sub_of_moved hbins]

end Sys2Proof.Machine
end

section
/-! A table word stored where the next step fetches it (log entries 9 and 10). -/

namespace Sys2Proof.Machine

theorem decodeTableWord_ok {nbits w : Nat} {i : Instr} (h : decodeTableWord nbits w = some i) :
    ∃ f, tableFrame nbits w = some f ∧ decode Params.default f = .ok i := by
  simp only [decodeTableWord] at h
  split at h
  · next f hf =>
    split at h <;> cases h
    next hd => exact ⟨f, hf, hd⟩
  · cases h

theorem State.withFetchWord_of_frame {nbits w : Nat} {f : Frame} (h : tableFrame nbits w = some f) (s : State) :
    s.withFetchWord nbits w = s.placeFrame f := by simp only [State.withFetchWord, State.placeTableWord, h]

/-- The tick placed has the vector it was placed for. -/
theorem State.placeTick_tickReady (t : BitVec 5) (s : State) : (s.placeTick t).tickReady t = true := by
  have hmore : (s.placeTick t).more = flagOf t.toNat 4 := by
    cases hflag : flagOf t.toNat 4 <;> simp [State.more, State.placeTick, RunArgs.inLen, hflag]
  refine (State.tickReady_iff _ t).2 ⟨⟨?_, rfl⟩, _, _, rfl, rfl, ?_⟩
  · simp only [State.placeTick]
    cases flagOf t.toNat 4 <;> simp
  · rw [State.vectorOf, hmore]
    exact tickBits_flags t

/-- Every other frame is placed as the host's next operation. -/
theorem State.placeFrame_of_not_tick {f : Frame} (h : ∀ t, f ≠ .tick t) (s : State) : s.placeFrame f = s.placeOp f := by
  cases f with
  | tick t => exact absurd rfl (h t)
  | access cmd data => rfl
  | layout l w => rfl
  | control u w => rfl

/-- Clearing reserved bits makes no decode vector of another frame. -/
theorem cleared_ne_tick {p : Params} {f : Frame} (h : ∀ t, f ≠ .tick t) (t : BitVec 5) : f.cleared p ≠ .tick t := by
  cases f with
  | tick t' => exact absurd rfl (h t')
  | access cmd data => nofun
  | layout l w => cases l <;> nofun
  | control u w => nofun

/-- An operation placed is fetched next and leaves the port as it was. -/
theorem State.step_placeOp {f : Frame} {i : Instr} (hd : decode Params.default f = .ok i) (s : State) :
    step (s.placeOp f) = exec i { s.placeOp f with port := s.port } :=
  stepWith_hostOp (s := s.placeOp f) (rest := s.port) rfl rfl hd

theorem State.step_placeTick (t : BitVec 5) (s : State) : step (s.placeTick t) = exec (decodeTick t) (s.placeTick t) := by
  obtain ⟨-, c, d, hc, hd, hv⟩ := (State.tickReady_iff _ t).1 (s.placeTick_tickReady t)
  have h := stepWith_decide (ex := exec) (s := s.placeTick t) rfl hc hd
  rwa [hv] at h

/-- Settles O27: a decode vector is placed as a tick in progress, any other frame as the host's next operation. -/
theorem fetchWordIsRunNext : Obligations.FetchWordIsRunNext := by
  unfold Obligations.FetchWordIsRunNext
  intro s nbits w i hi
  obtain ⟨f, hf, hd⟩ := decodeTableWord_ok hi
  obtain ⟨hframe, -⟩ := encodeOfDecode _ _ _ Params.default_legal hd
  rw [State.withFetchWord_of_frame hf]
  by_cases ht : ∃ t, f = .tick t
  · obtain ⟨t, rfl⟩ := ht
    cases hd
    refine ⟨_, s.step_placeTick t, rfl, rfl, rfl, rfl, fun t' ht => ?_, fun hno => absurd hframe (hno t)⟩
    cases hframe.symm.trans ht
    exact ⟨s.placeTick_tickReady t, rfl⟩
  · have hother : ∀ t, f ≠ .tick t := fun t h => ht ⟨t, h⟩
    rw [State.placeFrame_of_not_tick hother]
    exact ⟨_, s.step_placeOp hd, rfl, rfl, rfl, rfl,
      fun t h => absurd (hframe.symm.trans h) (cleared_ne_tick hother t), fun _ => rfl⟩

end Sys2Proof.Machine
end

section
/-! The premises of 92: lengths that are legal never raise LENGTH_VIOLATION (R156), and the identity units of 95 section 3
meet the premises. -/

namespace Sys2Proof.Machine

/-! ### Legal lengths -/

/-- Only `DRAIN` of a word longer than R120 allows raises LENGTH_VIOLATION (R156). -/
theorem State.outcome_ne_lengthViolation (e : Env) (c : Cst) {d : Dst} {s : State} (hf : s.fault = .none)
    (hd : d.outputValid = true → d.dataOutLength ≤ dsOutBytes) :
    (s.outcome e c d).endTick.fault ≠ .lengthViolation := by
  obtain ⟨-, -, -, -, -, -, -, hfault, -⟩ := (s.outcome e c d).endTick_frame
  rw [hfault]
  obtain ⟨-, -, -, ho⟩ | ⟨-, -, -, ho⟩ | ⟨-, hv, ho⟩ | ⟨-, ho⟩ := s.outcome_selected e c d <;> rw [ho]
  · simp [State.feed_fault, hf]
  · simp [hf]
  · obtain ⟨hlong, -⟩ | ⟨-, -, h⟩ | ⟨-, -, h⟩ := s.drain_cases e d
    · exact absurd (hd hv) (Nat.not_le.2 hlong)
    · simp [h]
    · simp [h, hf]
  · simp [hf]

/-- Settles O54: the word a tick drains is one that the Decompressor's status showed. -/
theorem legalLengthsNeverViolate : Obligations.LegalLengthsNeverViolate := by
  unfold Obligations.LegalLengthsNeverViolate
  intro e s hlegal hr
  have hshown : ((s.read e .cStat).read e .dStat).rdata
      = trunc s.params.W (e.decompressor.status ((s.read e .cStat).world.tickOver s.params e).unitD) := rfl
  rw [State.tick]
  refine State.outcome_ne_lengthViolation e _ (s := (s.read e .cStat).read e .dStat) (s.inRun_iff.1 hr).2 ?_
  rw [hshown]
  exact hlegal _

/-! ### Units of one slot -/

/-- A unit of one slot, as its port shows it: it takes a datum when empty, keeps it until it is asked to give it up, and shows
what it holds; neither time nor anything but a reset empties it otherwise (95 section 3). -/
structure UnitPort.OneSlot (x : UnitPort) : Prop where
  still : ∀ h u, x.unit.advance h u = u
  reset : ∀ u, x.unit.onReset u = []
  ready : x.inputReady [] = true ∧ x.outputValid [] = false
  full : ∀ v r, x.inputReady (v :: r) = false ∧ x.outputValid (v :: r) = true
  accepts : ∀ w b, x.offers w = some b → x.ctrl [] w = [b]
  keeps : ∀ v r w, x.takes w = false → x.ctrl (v :: r) w = v :: r
  gives : ∀ v r w, x.takes w = true → x.ctrl (v :: r) w = []
  accepted : ∀ u, x.unit.accepted u = slotOf u
  empty : x.unit.waiting [] = []
  shows : ∀ v r, x.unit.waiting (v :: r) = x.shown (v :: r)

section
variable {x : UnitPort}

/-- Nothing changes without a control word. -/
theorem UnitPort.OneSlot.after_noControl (hx : x.OneSlot) {es : List UnitEvent} (h : noControl es) (u : UnitState) :
    x.after es u = u := by
  induction es generalizing u with
  | nil => rfl
  | cons ev es ih =>
    have hrest : noControl es := fun w hw => h w (List.mem_cons_of_mem _ hw)
    cases ev with
    | advance k => rw [UnitPort.after, hx.still, ih hrest]
    | control w => exact absurd List.mem_cons_self (h w)

/-- A full slot stays as it is until its datum is asked for. -/
theorem UnitPort.OneSlot.after_notTaken (hx : x.OneSlot) {es : List UnitEvent} (h : x.notTaken es) (v : Nat)
    (r : List Nat) : x.after es (v :: r) = v :: r := by
  induction es with
  | nil => rfl
  | cons ev es ih =>
    have hrest : x.notTaken es := fun w hw => h w (List.mem_cons_of_mem _ hw)
    cases ev with
    | advance k => rw [UnitPort.after, hx.still, ih hrest]
    | control w => rw [UnitPort.after, hx.keeps v r w (h w List.mem_cons_self), ih hrest]

theorem UnitPort.OneSlot.holdsHandshake (hx : x.OneSlot) : x.HoldsHandshake := by
  refine ⟨fun u es w b hready hes hoffer _ => ?accepts, fun u es hvalid hes => ?keeps,
    fun u es w hvalid hes htake _ => ?gives⟩ <;> cases u
  case accepts.nil =>
    dsimp only
    rw [hx.after_noControl hes, hx.accepts w b hoffer, hx.accepted, hx.accepted]
    rfl
  case accepts.cons v r => simp [(hx.full v r).1] at hready
  case keeps.nil => simp [hx.ready.2] at hvalid
  case keeps.cons v r =>
    dsimp only
    rw [hx.after_notTaken hes]
    exact ⟨hvalid, rfl⟩
  case gives.nil => simp [hx.ready.2] at hvalid
  case gives.cons v r =>
    dsimp only
    rw [hx.after_notTaken hes, hx.gives v r w htake, hx.shows, hx.empty, List.append_nil]

theorem UnitPort.OneSlot.cleanAfterReset (hx : x.OneSlot) : x.CleanAfterReset := by
  intro u es hes
  dsimp only
  rw [hx.after_noControl hes, hx.reset, hx.accepted]
  exact ⟨hx.ready.1, hx.ready.2, rfl, hx.empty⟩

end

/-! ### The identity units -/

/-- A control word says what the bits of its layout say (R81, R113). -/
theorem decCctl_low {p : Params} (h : p.legal = true) (w : Nat) : decCctl p (w % 2 ^ (3 + p.ccInW)) = decCctl p w := by
  obtain ⟨roundTrip, -⟩ := codecRoundTripLaws p h
  rw [← encCctl_decCctl h]
  exact roundTrip _ (decCctl_fits p w)

/-- A control word says what the bits of its layout say (R82, R115). -/
theorem decDctl_low {p : Params} (h : p.legal = true) (w : Nat) : decDctl p (w % 2 ^ (2 + p.dcInW)) = decDctl p w := by
  obtain ⟨-, roundTrip, -⟩ := codecRoundTripLaws p h
  rw [← encDctl_decDctl h]
  exact roundTrip _ (decDctl_fits p w)

/-- Cutting a word to `W` bits cuts none of its layout. -/
theorem decCctl_trunc {p : Params} (h : p.legal = true) (w : Nat) : decCctl p (trunc p.W w) = decCctl p w := by
  obtain ⟨hW, -, hcc, -⟩ := Params.legal_bounds h
  rw [← decCctl_low h, trunc_eq, Nat.mod_mod_of_dvd _ (Nat.pow_dvd_pow 2 (by omega)), decCctl_low h]

theorem decDctl_trunc {p : Params} (h : p.legal = true) (w : Nat) : decDctl p (trunc p.W w) = decDctl p w := by
  obtain ⟨hW, -, -, -, hdc⟩ := Params.legal_bounds h
  rw [← decDctl_low h, trunc_eq, Nat.mod_mod_of_dvd _ (Nat.pow_dvd_pow 2 (by omega)), decDctl_low h]

section
variable {p : Params} {dc di : Nat}

theorem statusC_mock_nil (hp : p.legal = true) :
    statusC p (clockEnv (mockC p) (mockD p) dc di) [] = ⟨true, false, 0⟩ := by
  simp only [statusC, clockEnv, unitsEnv, mockC, trunc_of_lt (encCst_lt p _), decCst_encCst hp, Nat.zero_mod]

theorem statusC_mock_cons (hp : p.legal = true) (v : Nat) (r : List Nat) :
    statusC p (clockEnv (mockC p) (mockD p) dc di) (v :: r) = ⟨false, true, v % 2 ^ (p.W - 2)⟩ := by
  simp only [statusC, clockEnv, unitsEnv, mockC, trunc_of_lt (encCst_lt p _), decCst_encCst hp]

theorem statusD_mock_nil (hp : p.legal = true) :
    statusD p (clockEnv (mockC p) (mockD p) dc di) [] = ⟨true, false, 0, 0⟩ := by
  simp only [statusD, clockEnv, unitsEnv, mockD, trunc_of_lt (encDst_lt p _), decDst_encDst hp, Nat.zero_mod]

theorem statusD_mock_cons (hp : p.legal = true) (v : Nat) (r : List Nat) :
    statusD p (clockEnv (mockC p) (mockD p) dc di) (v :: r) = ⟨false, true, v % 2 ^ 16, 1⟩ := by
  obtain ⟨hW, -⟩ := Params.legal_bounds hp
  have hlen : 1 < 2 ^ (p.W - 18) := Nat.one_lt_two_pow (by omega)
  simp only [statusD, clockEnv, unitsEnv, mockD, trunc_of_lt (encDst_lt p _), decDst_encDst hp, trunc_eq, Nat.mod_mod,
    Nat.mod_eq_of_lt hlen]

/-- What a `MockC` does with a control word (95 section 3). -/
theorem ctrl_mockC (hp : p.legal = true) (u : UnitState) (w : Nat) :
    (portC p (clockEnv (mockC p) (mockD p) dc di)).ctrl u w = (mockC p).onCtrl u w := by
  simp only [portC, clockEnv, unitsEnv, mockC, decCctl_trunc hp]

/-- What a `MockD` does with a control word (95 section 3). -/
theorem ctrl_mockD (hp : p.legal = true) (u : UnitState) (w : Nat) :
    (portD p (clockEnv (mockC p) (mockD p) dc di)).ctrl u w = (mockD p).onCtrl u w := by
  simp only [portD, clockEnv, unitsEnv, mockD, decDctl_trunc hp]

theorem oneSlot_mockC (hp : p.legal = true) : (portC p (clockEnv (mockC p) (mockD p) dc di)).OneSlot where
  still := fun _ _ => rfl
  reset := fun _ => rfl
  ready := by simp [portC, statusC_mock_nil hp]
  full := fun v r => by simp [portC, statusC_mock_cons hp]
  accepts := fun w b hoffer => by
    simp only [portC] at hoffer
    rw [ctrl_mockC hp]
    split at hoffer <;> cases hoffer
    next hvalid => simp [mockC, hvalid]
  keeps := fun v r w htake => (ctrl_mockC hp (v :: r) w).trans (if_neg (Bool.eq_false_iff.1 htake))
  gives := fun v r w htake => (ctrl_mockC hp (v :: r) w).trans (if_pos htake)
  accepted := fun _ => rfl
  empty := rfl
  shows := fun v r => by
    simp only [portC, statusC_mock_cons hp]
    rfl

theorem oneSlot_mockD (hp : p.legal = true) : (portD p (clockEnv (mockC p) (mockD p) dc di)).OneSlot where
  still := fun _ _ => rfl
  reset := fun _ => rfl
  ready := by simp [portD, statusD_mock_nil hp]
  full := fun v r => by simp [portD, statusD_mock_cons hp]
  accepts := fun w b hoffer => by
    simp only [portD] at hoffer
    rw [ctrl_mockD hp]
    split at hoffer <;> cases hoffer
    next hvalid => simp [mockD, hvalid]
  keeps := fun v r w htake => (ctrl_mockD hp (v :: r) w).trans (if_neg (Bool.eq_false_iff.1 htake))
  gives := fun v r w htake => (ctrl_mockD hp (v :: r) w).trans (if_pos htake)
  accepted := fun _ => rfl
  empty := rfl
  shows := fun v r => by
    have hbyte : v % 2 ^ 16 % 256 = v % 2 ^ 8 := by omega
    simp only [portD, statusD_mock_cons hp, unpack_one, List.map, BitVec.toNat_ofNat, hbyte, Nat.mod_mod]
    rfl

/-- A `MockD` shows no byte or one (95 section 3). -/
theorem unitLengthLegal_mockD (hp : p.legal = true) : UnitLengthLegal p (clockEnv (mockC p) (mockD p) dc di) := by
  intro u _
  cases u with
  | nil => simp [statusD_mock_nil hp]
  | cons v r => simp [statusD_mock_cons hp, dsOutBytes]

end

/-- Settles O55: both identity units are units of one slot, and the clock draws the same before every access. -/
theorem fixturesMeetThePremises : Obligations.FixturesMeetThePremises := by
  unfold Obligations.FixturesMeetThePremises
  intro p hp e
  exact ⟨⟨(oneSlot_mockC hp).holdsHandshake, (oneSlot_mockD hp).holdsHandshake⟩,
    ⟨(oneSlot_mockC hp).cleanAfterReset, (oneSlot_mockD hp).cleanAfterReset⟩, unitLengthLegal_mockD hp,
    fun _ => 3, fun _ => 1, fun _ _ _ => ⟨rfl, rfl⟩⟩

end Sys2Proof.Machine
end
